-- ==== Sys2Proof/Word.lean ====
section
/-! DEFINITION. The two word types of the block. All values are unsigned (rule R12). -/

namespace Sys2Proof

/-- `u8` (rule R12): one byte of a key, a block, a text or a buffer. -/
abbrev Byte := BitVec 8

/-- `u32` (rule R12): one register of the window, one word of the cipher or of the digest. -/
abbrev Word := BitVec 32

end Sys2Proof
end

