-- ==== Sys2Proof/Syntax.lean ====
section
/-! DEFINITION. The commands of the block: one constructor per row of spec/opcode_table.json
(rule R95). A row whose legal LEN is one value has no LEN operand. -/

namespace Sys2Proof

/-- A decoded command (rules R90 to R95). `len` is the LEN field, a byte count (rule R92). -/
inductive Instr where
  /-- OP 0x00, rule R120. -/
  | nop
  /-- OP 0x01, rule R121. -/
  | zeroize
  /-- OP 0x10, LEN 16, rule R134. -/
  | bcKey
  /-- OP 0x11, LEN 16, rule R136. -/
  | bcEnc
  /-- OP 0x20, LEN 16, rule R162. -/
  | ofbIv
  /-- OP 0x21, LEN 16, rule R163. -/
  | ofbBlk
  /-- OP 0x22, LEN 0..15, rule R164. -/
  | ofbEncFin (len : Nat)
  /-- OP 0x23, LEN 16, rule R165. -/
  | ofbDecFin
  /-- OP 0x30, LEN 0, rule R193. -/
  | hInit
  /-- OP 0x31, LEN 64, rule R194. -/
  | hBlk
  /-- OP 0x32, LEN 0..63, rule R195. -/
  | hFin (len : Nat)
  /-- OP 0x40, LEN 0, rule R222. -/
  | psStart
  /-- OP 0x41, LEN 0..64, rule R223. -/
  | psFeed (len : Nat)
  /-- OP 0x42, LEN 0, rule R224. -/
  | psFinish
  /-- OP 0x43, LEN 0, ARG = COORD: `row = ARG[6:4]`, `col = ARG[2:0]` (rules R93, R226). -/
  | psLook (row col : Nat)
  /-- OP 0x44, LEN 0, ARG = CHAR: the byte looked up (rules R93, R227). -/
  | psRlook (c : Byte)
  /-- OP 0x50, LEN 0..64, ARG = FLAGS: `UPCASE = ARG[0]`, `FOLDJ = ARG[1]` (rules R93, R250). -/
  | bfFilter (len : Nat) (upcase foldj : Bool)
  /-- OP 0x51, LEN 0..64, rule R252. -/
  | bfEnc (len : Nat)
  /-- OP 0x52, LEN 0..64, rule R253. -/
  | bfDec (len : Nat)
  deriving DecidableEq, Repr

end Sys2Proof
end

