-- ==== Sys2Proof/WellFormed.lean ====
section
/-! DEFINITION. Which commands have an encoding: the operand ranges of rules R93 and R95. -/

namespace Sys2Proof

/-- The operands fit their fields and LEN lies in the command's legal set (rule R95). Coordinates 5..7
have an encoding (rule R93); the command itself raises E_RANGE for them (rule R226). -/
def Instr.wellFormed : Instr → Bool
  | .nop | .zeroize | .bcKey | .bcEnc | .ofbIv | .ofbBlk | .ofbDecFin => true
  | .hInit | .hBlk | .psStart | .psFinish => true
  | .ofbEncFin len => decide (len ≤ 15)
  | .hFin len => decide (len ≤ 63)
  | .psFeed len => decide (len ≤ 64)
  | .psLook row col => decide (row ≤ 7) && decide (col ≤ 7)
  | .psRlook _ => true
  | .bfFilter len _ _ => decide (len ≤ 64)
  | .bfEnc len => decide (len ≤ 64)
  | .bfDec len => decide (len ≤ 64)

end Sys2Proof
end

