-- ==== Sys2Proof/Decode.lean ====
section
/-! DEFINITION. The decoder of a 32-bit command word (rules R90 to R98), total, each rejection by its
own name, and after it the encoder. -/

namespace Sys2Proof

/-! ### The fields of the command word (rule R90) -/

/-- OP, bits 7:0. -/
def opField (v : Word) : Byte := v.extractLsb' 0 8

/-- LEN, bits 15:8. -/
def lenField (v : Word) : Byte := v.extractLsb' 8 8

/-- ARG, bits 23:16. -/
def argField (v : Word) : Byte := v.extractLsb' 16 8

/-- RSVD, bits 31:24. -/
def rsvdField (v : Word) : Byte := v.extractLsb' 24 8

/-- The COORD form's `row = ARG[6:4]` (rule R93). -/
def coordRow (arg : Byte) : Nat := (arg.extractLsb' 4 3).toNat

/-- The COORD form's `col = ARG[2:0]` (rule R93). -/
def coordCol (arg : Byte) : Nat := (arg.extractLsb' 0 3).toNat

/-! ### The rows of rule R95 -/

/-- The four forms of ARG (rule R93). -/
inductive ArgForm where
  | zero
  | coord
  | char
  | flags
  deriving DecidableEq, Repr

/-- What rule R93 asks of ARG in each form. -/
def ArgForm.accepts : ArgForm → Byte → Bool
  | .zero, arg => arg == 0
  | .coord, arg => !arg.getLsbD 7 && !arg.getLsbD 3
  | .char, _ => true
  | .flags, arg => arg.extractLsb' 2 6 == 0

/-- One row of rule R95: opcode, form of ARG, the legal LEN values `lenMin..lenMax`, and the command
that LEN and ARG make. -/
structure CmdRow where
  op : Byte
  form : ArgForm
  lenMin : Nat
  lenMax : Nat
  make : Nat → Byte → Instr

/-- Rule R95's table, in its order. -/
def cmdRows : List CmdRow :=
  [ ⟨0x00, .zero, 0, 0, fun _ _ => .nop⟩,
    ⟨0x01, .zero, 0, 0, fun _ _ => .zeroize⟩,
    ⟨0x10, .zero, 16, 16, fun _ _ => .bcKey⟩,
    ⟨0x11, .zero, 16, 16, fun _ _ => .bcEnc⟩,
    ⟨0x20, .zero, 16, 16, fun _ _ => .ofbIv⟩,
    ⟨0x21, .zero, 16, 16, fun _ _ => .ofbBlk⟩,
    ⟨0x22, .zero, 0, 15, fun len _ => .ofbEncFin len⟩,
    ⟨0x23, .zero, 16, 16, fun _ _ => .ofbDecFin⟩,
    ⟨0x30, .zero, 0, 0, fun _ _ => .hInit⟩,
    ⟨0x31, .zero, 64, 64, fun _ _ => .hBlk⟩,
    ⟨0x32, .zero, 0, 63, fun len _ => .hFin len⟩,
    ⟨0x40, .zero, 0, 0, fun _ _ => .psStart⟩,
    ⟨0x41, .zero, 0, 64, fun len _ => .psFeed len⟩,
    ⟨0x42, .zero, 0, 0, fun _ _ => .psFinish⟩,
    ⟨0x43, .coord, 0, 0, fun _ arg => .psLook (coordRow arg) (coordCol arg)⟩,
    ⟨0x44, .char, 0, 0, fun _ arg => .psRlook arg⟩,
    ⟨0x50, .flags, 0, 64, fun len arg => .bfFilter len (arg.getLsbD 0) (arg.getLsbD 1)⟩,
    ⟨0x51, .zero, 0, 64, fun len _ => .bfEnc len⟩,
    ⟨0x52, .zero, 0, 64, fun len _ => .bfDec len⟩ ]

/-! ### Decoding -/

/-- Why a word is no command: the failing step of rule R98. -/
inductive DecodeError where
  /-- RSVD ≠ 0 (rule R94). -/
  | rsvd
  /-- OP is reserved (rule R96). -/
  | reservedOp
  /-- ARG violates its form (rule R93). -/
  | argForm
  /-- LEN is not in the command's legal set (rule R92). -/
  | badLen
  deriving DecidableEq, Repr

/-- `Decode(v)` (rule R98): the first failing step decides. Total on every 32-bit word (rule R97). -/
def decode (v : Word) : Except DecodeError Instr :=
  if rsvdField v ≠ 0 then .error .rsvd
  else
    match cmdRows.find? (fun r => r.op == opField v) with
    | none => .error .reservedOp
    | some r =>
      if !r.form.accepts (argField v) then .error .argForm
      else if (lenField v).toNat < r.lenMin || r.lenMax < (lenField v).toNat then .error .badLen
      else .ok (r.make (lenField v).toNat (argField v))

/-- The instruction the decoder reads from an opcode-table row's bits `w`: one 32-bit word, bits at
and above `nbits` zero. -/
def decodeTableWord (nbits w : Nat) : Option Instr :=
  (decode (BitVec.ofNat 32 (w % 2 ^ nbits))).toOption

/-! ### Encoding -/

/-- `RSVD<<24 | ARG<<16 | LEN<<8 | OP` with RSVD = 0 (rule R90). -/
def commandWord (op len arg : Byte) : Word :=
  (arg.setWidth 32 <<< 16) ||| (len.setWidth 32 <<< 8) ||| op.setWidth 32

/-- The OP byte of a command (rule R95). -/
def Instr.opByte : Instr → Byte
  | .nop => 0x00
  | .zeroize => 0x01
  | .bcKey => 0x10
  | .bcEnc => 0x11
  | .ofbIv => 0x20
  | .ofbBlk => 0x21
  | .ofbEncFin _ => 0x22
  | .ofbDecFin => 0x23
  | .hInit => 0x30
  | .hBlk => 0x31
  | .hFin _ => 0x32
  | .psStart => 0x40
  | .psFeed _ => 0x41
  | .psFinish => 0x42
  | .psLook _ _ => 0x43
  | .psRlook _ => 0x44
  | .bfFilter _ _ _ => 0x50
  | .bfEnc _ => 0x51
  | .bfDec _ => 0x52

/-- The LEN byte of a command (rule R95). -/
def Instr.lenByte : Instr → Byte
  | .bcKey | .bcEnc | .ofbIv | .ofbBlk | .ofbDecFin => 16
  | .hBlk => 64
  | .ofbEncFin len | .hFin len | .psFeed len | .bfFilter len _ _ | .bfEnc len | .bfDec len =>
    BitVec.ofNat 8 len
  | .nop | .zeroize | .hInit | .psStart | .psFinish | .psLook _ _ | .psRlook _ => 0

/-- The ARG byte of a command (rule R93): COORD is `row << 4 | col`, FLAGS is `FOLDJ << 1 | UPCASE`. -/
def Instr.argByte : Instr → Byte
  | .psLook row col => (BitVec.ofNat 8 row <<< 4) ||| BitVec.ofNat 8 col
  | .psRlook c => c
  | .bfFilter _ upcase foldj => (if upcase then 1 else 0) ||| (if foldj then 2 else 0)
  | .nop | .zeroize | .bcKey | .bcEnc | .ofbIv | .ofbBlk | .ofbEncFin _ | .ofbDecFin => 0
  | .hInit | .hBlk | .hFin _ | .psStart | .psFeed _ | .psFinish | .bfEnc _ | .bfDec _ => 0

/-- The command word of a command (rules R90, R95). -/
def encode (i : Instr) : Word := commandWord i.opByte i.lenByte i.argByte

end Sys2Proof
end

