-- ==== Sys2Proof/Config.lean ====
section
/-! DEFINITION. The named constants of the spec (rules R11, R18, R191; U14, U15), the open parameter
`BASE` (rule R10) and the free draws of reads while BUSY (rule R44). -/

namespace Sys2Proof.Config

/-- The key-schedule constant P (rule R11, decision D7; notes/assumptions/10.md). -/
def keyP : Word := 0xB7E15163

/-- The key-schedule constant Q (rule R11, decision D7; notes/assumptions/10.md). -/
def keyQ : Word := 0x9E3779B9

/-- Starting value of the key-mixing accumulator a (rule R131, decision D8, U14). -/
def mixStartA : Word := 0

/-- Starting value of the key-mixing accumulator b (rule R131, decision D8, U14). -/
def mixStartB : Word := 0

/-- Starting value of the key-mixing index i (rule R131, decision D8, U14). -/
def mixStartI : Fin 44 := 0

/-- Starting value of the key-mixing index j (rule R131, decision D8, U14). -/
def mixStartJ : Fin 4 := 0

/-- The product of the block transform keeps its low 32 bits (rule R13, rule R133, U14). -/
def product (x y : Word) : Word := x * y

/-- The initial digest state `H_INIT` (rule R191). -/
def hashInit : Vector Word 5 :=
  #v[0x67452301, 0xEFCDAB89, 0x98BADCFE, 0x10325476, 0xC3D2E1F0]

/-- The round constant `K(t)` (rule R191). -/
def hashK (t : Nat) : Word :=
  if t < 20 then 0x5A827999
  else if t < 40 then 0x6ED9EBA1
  else if t < 60 then 0x8F1BBCDC
  else 0xCA62C1D6

/-- `ALPHA25` (rule R18, decision D23, U15): "ABCDEFGHIKLMNOPQRSTUVWXYZ", A to Z without J. -/
def alpha25 : List Byte :=
  [0x41, 0x42, 0x43, 0x44, 0x45, 0x46, 0x47, 0x48, 0x49, 0x4B, 0x4C, 0x4D, 0x4E,
   0x4F, 0x50, 0x51, 0x52, 0x53, 0x54, 0x55, 0x56, 0x57, 0x58, 0x59, 0x5A]

/-- `BASE`, the window's base address in the host's address space: an open parameter of the spec
(rule R10, U3). Nothing in Lean gives it a value (notes/assumptions/7.md). -/
opaque base : Nat

/-- The free draws of the reads the spec leaves unspecified while BUSY = 1 (rule R44, U1): the n-th
draw, with no law. Nothing in Lean gives it a value (notes/assumptions/3.md). -/
opaque busyDraw : Nat → Word

end Sys2Proof.Config
end

