-- ==== Sys2Proof/Machine/State.lean ====
section
/-! DEFINITION. Everything the spec gives the block as state (10_state.md), the events of the outside
world, the reasons a step stops, and the state after reset. -/

namespace Sys2Proof.Machine

/-! ### What the outside world does to the block (rule R77) -/

/-- One host access as the bus delivers it. `off` is the host's address minus `BASE` (rule R60), so no
value of `BASE` is chosen here (notes/assumptions/7.md). `data` is `none` for a read and the written
word for a write. `cached` says that the platform mapped the window cached (rule R75, U4). -/
structure Access where
  off : Int
  size : Nat
  data : Option Word
  cached : Bool
  deriving DecidableEq, Repr

/-- One event of the total order of rule R72. -/
inductive Event where
  /-- A host access (rules R60 to R69). -/
  | access (a : Access)
  /-- The reset input is asserted (rules R310, R311). -/
  | reset
  /-- The engine takes its completion step, if it has a command (rule R67). -/
  | engine
  deriving DecidableEq, Repr

/-! ### Why a step stops -/

/-- The one fault of the spec. -/
inductive Fault where
  /-- Raised by a host access of the window that is not an aligned 32-bit access (rule R68, U6). Safe:
  the spec treats it as a fault of the access, after which a run has no meaning. -/
  | busError
  deriving DecidableEq, Repr

/-- Why the model gives an event no meaning. -/
inductive Refusal where
  /-- Raised by `exec` for an instruction that has no meaning yet. Safe. No arm raises it. -/
  | notModelled (mnemonic : String)
  /-- Raised by a host access through a cached mapping of the window (rule R75): the spec asks a model
  to refuse programs that map the window cached (U4). Safe. -/
  | cachedWindow
  deriving DecidableEq, Repr

/-! ### The state -/

/-- The state of the block: the host-visible registers (rules R22 to R30), the internal state
(rules R31 to R35), and three fields of the model's own. STATUS is not stored: its bits are `ovr`,
`ksv`, `ivv`, `hact`, `sqb`, `sqv` and `errcode`, and BUSY is `pend` not empty (rule R35). -/
structure State where
  /-- CMD: the last accepted command word (rule R23). -/
  cmd : Word
  /-- STATUS[1] OVR: a CMD write was dropped (rules R24, R36). -/
  ovr : Bool
  /-- STATUS[2] KSV: the key schedule is valid (rules R24, R31). -/
  ksv : Bool
  /-- STATUS[3] IVV: the chaining state is loaded (rules R24, R32). -/
  ivv : Bool
  /-- STATUS[4] HACT: a digest is in progress (rules R24, R33). -/
  hact : Bool
  /-- STATUS[5] SQB: a square is being built (rules R24, R34). -/
  sqb : Bool
  /-- STATUS[6] SQV: the square is valid (rules R24, R34). -/
  sqv : Bool
  /-- STATUS[15:8] ERRCODE: the result code of the last completed command (rule R25). -/
  errcode : Byte
  /-- OUTLEN[6:0]; bits [31:7] read 0 (rule R26). -/
  outlen : BitVec 7
  /-- RESULT (rule R29). -/
  result : Word
  /-- DINb[0..63] (rule R27). -/
  din : Vector Byte 64
  /-- DOUTb[0..63] (rule R28). -/
  dout : Vector Byte 64
  /-- S[0..43], the key schedule (rule R31). -/
  sched : Vector Word 44
  /-- CIV, the chaining state (rule R32). -/
  civ : Vector Byte 16
  /-- H[0..4], the digest's chaining words (rule R33). -/
  h : Vector Word 5
  /-- MLEN: the message bits absorbed so far, modulo 2^64 (rule R33). -/
  mlen : BitVec 64
  /-- SQ[0..24], the Polybius square, cell (row, col) at 5·row + col (rule R34). -/
  sq : Vector Byte 25
  /-- SQN, 0..25: the number of cells filled during a build (rule R34). -/
  sqn : Nat
  /-- SEEN: which of the 25 square letters are placed, flag i for letter i of ALPHA25 (rule R34). -/
  seen : Vector Bool 25
  /-- PEND: empty, or the command word in flight; BUSY = 1 exactly when not empty (rule R35). -/
  pend : Option Word
  /-- SNAP: the copy of DINb taken when PEND was filled (rule R35). -/
  snap : Vector Byte 64
  /-- The model's own: the events still to come, first one first (rule R72; notes/assumptions/1.md). -/
  agenda : List Event
  /-- The model's own: the data of the last access, if it was a served read (rule R77;
  notes/assumptions/4.md). -/
  rdata : Option Word
  /-- The model's own: how many reads were served, the index of the next free draw (rule R44;
  notes/assumptions/3.md). -/
  draws : Nat
  deriving DecidableEq, Repr

/-- The block right after hardware reset (rule R45), with nothing yet to come. -/
def State.reset : State where
  cmd := 0
  ovr := false
  ksv := false
  ivv := false
  hact := false
  sqb := false
  sqv := false
  errcode := 0
  outlen := 0
  result := 0
  din := Vector.replicate 64 0
  dout := Vector.replicate 64 0
  sched := Vector.replicate 44 0
  civ := Vector.replicate 16 0
  h := Vector.replicate 5 0
  mlen := 0
  sq := Vector.replicate 25 0
  sqn := 0
  seen := Vector.replicate 25 false
  pend := none
  snap := Vector.replicate 64 0
  agenda := []
  rdata := none
  draws := 0

end Sys2Proof.Machine
end

