-- ==== Sys2Proof/Machine/Operands.lean ====
section
/-! DEFINITION. Byte and word conversions (rules R13, R14, R62 to R64), buffers as byte sequences, and
the operand forms of the commands (rules R92, R93). -/

namespace Sys2Proof.Machine

/-! ### Words and bytes -/

/-- `ROL(x, n)`: rotate left by `n mod 32` places (rule R13). -/
def rol (x : Word) (n : Nat) : Word := x.rotateLeft n

/-- `le32(b0,b1,b2,b3)` (rule R14). -/
def le32 (b0 b1 b2 b3 : Byte) : Word :=
  b0.setWidth 32 ||| (b1.setWidth 32 <<< 8) ||| (b2.setWidth 32 <<< 16) ||| (b3.setWidth 32 <<< 24)

/-- `be32(b0,b1,b2,b3)` (rule R14). -/
def be32 (b0 b1 b2 b3 : Byte) : Word :=
  (b0.setWidth 32 <<< 24) ||| (b1.setWidth 32 <<< 16) ||| (b2.setWidth 32 <<< 8) ||| b3.setWidth 32

/-- `LE32(x)`: the 4 bytes whose le32 is x (rule R14). -/
def leBytes (x : Word) : List Byte :=
  [x.extractLsb' 0 8, x.extractLsb' 8 8, x.extractLsb' 16 8, x.extractLsb' 24 8]

/-- `BE32(x)`: the 4 bytes whose be32 is x (rule R14). -/
def beBytes (x : Word) : List Byte :=
  [x.extractLsb' 24 8, x.extractLsb' 16 8, x.extractLsb' 8 8, x.extractLsb' 0 8]

/-- `BE64(x)`: the 8 bytes of x, most significant first (rule R14). -/
def beBytes64 (x : BitVec 64) : List Byte :=
  [x.extractLsb' 56 8, x.extractLsb' 48 8, x.extractLsb' 40 8, x.extractLsb' 32 8,
   x.extractLsb' 24 8, x.extractLsb' 16 8, x.extractLsb' 8 8, x.extractLsb' 0 8]

/-- Byte i of a byte sequence, 0 past its end (a LOADB's last partial word, rule R99). -/
def byteAt (l : List Byte) (i : Nat) : Byte := l.getD i 0

/-- Little-endian word k of a byte sequence (rules R27, R63). -/
def leWord (l : List Byte) (k : Nat) : Word :=
  le32 (byteAt l (4 * k)) (byteAt l (4 * k + 1)) (byteAt l (4 * k + 2)) (byteAt l (4 * k + 3))

/-- Big-endian word k of a byte sequence (rule R64). -/
def beWord (l : List Byte) (k : Nat) : Word :=
  be32 (byteAt l (4 * k)) (byteAt l (4 * k + 1)) (byteAt l (4 * k + 2)) (byteAt l (4 * k + 3))

/-- Byte-wise xor of two byte sequences (rule R160). -/
def xorBytes (x y : List Byte) : List Byte := List.zipWith (· ^^^ ·) x y

/-! ### Buffers -/

/-- A buffer of n entries that starts with `l` and is filled with `d` (rule R28: zeros past OUTLEN). -/
def vecOfList {α : Type} (n : Nat) (d : α) (l : List α) : Vector α n :=
  ⟨⟨(l ++ List.replicate n d).take n⟩, by simp⟩

/-- Writes the bytes of `l` into a buffer from index `at_` on (rule R27). -/
def setBytes {n : Nat} (v : Vector Byte n) (at_ : Nat) : List Byte → Vector Byte n
  | [] => v
  | b :: bs => setBytes (v.setIfInBounds at_ b) (at_ + 1) bs

/-! ### Operands -/

/-- `SNAP[0..n)`: the leading bytes of the DIN snapshot a command consumes (rule R92). -/
def State.operand (s : State) (n : Nat) : List Byte := s.snap.toList.take n

end Sys2Proof.Machine
end

