-- ==== Sys2Proof/Machine/Flags.lean ====
section
/-! DEFINITION. The result codes of commands (rule R280) and the STATUS register (rule R24). -/

namespace Sys2Proof.Machine

/-- The result codes of rule R280. -/
inductive ErrCode where
  /-- no error -/
  | ok
  /-- RSVD ≠ 0, OP reserved, or ARG violates its form -/
  | badCmd
  /-- LEN not in the command's legal set -/
  | len
  /-- KSV = 0 -/
  | noKey
  /-- IVV = 0 -/
  | noIv
  /-- HACT = 0 -/
  | noHash
  /-- SQB = 0 -/
  | seq
  /-- SQV = 0 -/
  | noSq
  /-- row ≥ 5 or col ≥ 5 -/
  | range
  /-- a byte has no square coordinate -/
  | char
  /-- the padding check fails -/
  | pad
  deriving DecidableEq, Repr

/-- The code column of rule R280. -/
def ErrCode.code : ErrCode → Byte
  | .ok => 0x00
  | .badCmd => 0x01
  | .len => 0x02
  | .noKey => 0x03
  | .noIv => 0x04
  | .noHash => 0x05
  | .seq => 0x06
  | .noSq => 0x07
  | .range => 0x08
  | .char => 0x09
  | .pad => 0x0A

/-- A STATUS bit as a word. -/
def flagBit (b : Bool) (i : Nat) : Word := if b then 1#32 <<< i else 0

/-- BUSY = 1 exactly when PEND is not empty (rule R35). -/
def State.busy (s : State) : Bool := s.pend.isSome

/-- STATUS, every field exact (rule R24): what a read returns when BUSY = 0. -/
def State.status (s : State) : Word :=
  flagBit s.busy 0 ||| flagBit s.ovr 1 ||| flagBit s.ksv 2 ||| flagBit s.ivv 3 ||| flagBit s.hact 4
    ||| flagBit s.sqb 5 ||| flagBit s.sqv 6 ||| (s.errcode.setWidth 32 <<< 8)

/-- STATUS while BUSY = 1 (rules R24, R44): BUSY = 1 and the true OVR, bits [6:2] and [15:8] from the
free draw `d`, the reserved bits 0. -/
def State.statusBusy (s : State) (d : Word) : Word :=
  flagBit true 0 ||| flagBit s.ovr 1 ||| (d &&& 0x0000FF7C)

end Sys2Proof.Machine
end

