-- ==== Sys2Proof/Machine/Ops.lean ====
section
/-! DEFINITION. The operations the commands share: completing with a result code, raising an error,
checking a precondition, and writing an output. -/

namespace Sys2Proof.Machine

/-- What one command, one event or one step answers. -/
abbrev Result := Host.Outcome State Fault Refusal

/-- ERRCODE gets the code `e` and nothing else changes (rules R25, R281). -/
def State.withErr (s : State) (e : ErrCode) : State := { s with errcode := e.code }

/-- `raise E_x` (rules R15, R281): the command ends, ERRCODE is its code, and nothing else changes. The
block has no trap (rule R285), so this is all that an error does, and nothing returns from it
(rule R286). -/
def State.raise (s : State) (e : ErrCode) : Result := .next (s.withErr e)

/-- A command's success: ERRCODE is 0x00 (rule R25). -/
def State.succeed (s : State) : Result := .next (s.withErr .ok)

/-- One check of a command (rule R16): `k` when `c` holds, else `raise e` with nothing written. -/
def State.require (s : State) (c : Bool) (e : ErrCode) (k : Result) : Result :=
  if c then k else s.raise e

/-- The output of an output-producing command (rules R26, R28): DOUT gets `out` and zeros past it,
OUTLEN its length. -/
def State.produce (s : State) (out : List Byte) : State :=
  { s with dout := vecOfList 64 0 out, outlen := BitVec.ofNat 7 out.length }

/-- CIV is cleared and IVV is 0: no stream is open (rule R161). -/
def State.endStream (s : State) : State := { s with civ := Vector.replicate 16 0, ivv := false }

/-- PEND is emptied, so BUSY falls (rule R67). -/
def State.retire (s : State) : State := { s with pend := none }

/-- The effect of hardware reset (rules R310, R311): every state of rule R45 gets its reset value. The
model's own agenda and draw counter go on (notes/assumptions/6.md). -/
def State.hwReset (s : State) : State :=
  { State.reset with agenda := s.agenda, draws := s.draws }

end Sys2Proof.Machine
end

