-- ==== Sys2Proof/Machine/Bus.lean ====
section
/-! DEFINITION. The register window (10_state.md section 2) and the host's accesses (20_memory.md). -/

namespace Sys2Proof.Machine

/-! ### The register map (rule R22) -/

/-- Offset of CMD. -/
def offCmd : Nat := 0x00
/-- Offset of STATUS. -/
def offStatus : Nat := 0x04
/-- Offset of OUTLEN. -/
def offOutlen : Nat := 0x08
/-- Offset of RESULT. -/
def offResult : Nat := 0x0C
/-- Offset of DIN[0]. -/
def offDin : Nat := 0x40
/-- Offset of DOUT[0]. -/
def offDout : Nat := 0x80

/-- The offset lies in DIN[0..15] (rule R27). -/
def isDin (off : Nat) : Bool := decide (0x40 ≤ off) && decide (off < 0x80)

/-- The offset lies in DOUT[0..15] (rule R28). -/
def isDout (off : Nat) : Bool := decide (0x80 ≤ off) && decide (off < 0xC0)

/-! ### Reads -/

/-- The register at a word offset, every field exact (rule R22); reserved offsets read 0 (rule R30). -/
def State.regAt (s : State) (off : Nat) : Word :=
  if off = offCmd then s.cmd
  else if off = offStatus then s.status
  else if off = offOutlen then s.outlen.setWidth 32
  else if off = offResult then s.result
  else if isDin off then leWord s.din.toList ((off - offDin) / 4)
  else if isDout off then leWord s.dout.toList ((off - offDout) / 4)
  else 0

/-- What a served read returns: the register while BUSY = 0; while BUSY = 1 a free draw for OUTLEN,
RESULT, DOUT and STATUS's fields other than BUSY and OVR (rule R44). -/
def State.readData (s : State) (off : Nat) : Word :=
  if s.busy then
    if off = offStatus then s.statusBusy (Config.busyDraw s.draws)
    else if off = offOutlen ∨ off = offResult ∨ isDout off then Config.busyDraw s.draws
    else s.regAt off
  else s.regAt off

/-- A served read: no side effect on the block (rule R69); the next read has a fresh draw (U1). -/
def State.serveRead (s : State) (off : Nat) : State :=
  { s with rdata := some (s.readData off), draws := s.draws + 1 }

/-! ### Writes -/

/-- A CMD write (rules R23, R36, R66): accepted when PEND is empty, dropped otherwise. -/
def State.writeCmd (s : State) (v : Word) : State :=
  if s.busy then { s with ovr := true }
  else
    { s with
      cmd := v
      pend := some v
      snap := s.din
      ovr := if opField v = 0 then false else s.ovr }

/-- A write to DIN[k] (rule R27): four bytes, the low byte first. -/
def State.writeDin (s : State) (k : Nat) (v : Word) : State :=
  { s with din := setBytes s.din (4 * k) (leBytes v) }

/-- A served write: read-only and reserved offsets ignore it (rule R30). -/
def State.writeReg (s : State) (off : Nat) (v : Word) : State :=
  if off = offCmd then s.writeCmd v
  else if isDin off then s.writeDin ((off - offDin) / 4) v
  else s

/-- A served write returns no data to the host (rule R77). -/
def State.serveWrite (s : State) (off : Nat) (v : Word) : State :=
  { s.writeReg off v with rdata := none }

/-! ### Accesses -/

/-- The access reaches the block: `BASE <= a <= BASE+0xFF` (rule R60). -/
def Access.inWindow (a : Access) : Bool := decide (0 ≤ a.off) && decide (a.off ≤ 0xFF)

/-- The one access shape the block serves: 32 bits at a multiple of 4 (rule R68). -/
def Access.aligned (a : Access) : Bool := decide (a.size = 4) && decide (a.off % 4 = 0)

/-- One host access. Outside the window it does not reach the block (rule R60); through a cached
mapping the model declines it (U4); in any other shape than an aligned word it is a bus error
(rule R68). -/
def State.access (s : State) (a : Access) : Result :=
  if !a.inWindow then .next { s with rdata := none }
  else if a.cached then .refused .cachedWindow
  else if !a.aligned then .fault .busError
  else
    match a.data with
    | none => .next (s.serveRead a.off.toNat)
    | some v => .next (s.serveWrite a.off.toNat v)

/-- The host's 32-bit access at address `addr` of its address space (rules R15, R60). -/
def accessAt (addr : Nat) (data : Option Word) : Access :=
  { off := (addr : Int) - (Config.base : Int), size := 4, data := data, cached := false }

end Sys2Proof.Machine
end

