-- ==== Sys2Proof/Machine/Polybius.lean ====
section
/-! DEFINITION. fractionating_substitution_cipher, part 1 (44_polybius.md): the square, its lookup and
reverse map, PS_START, PS_FEED, PS_FINISH, PS_LOOK and PS_RLOOK. -/

namespace Sys2Proof.Machine

/-! ### Characters -/

/-- `up(c)`: ASCII a..z to A..Z only (rule R220). -/
def upcaseByte (c : Byte) : Byte := if 0x61 ≤ c ∧ c ≤ 0x7A then c - 0x20 else c

/-- `fold(c)`: J to I (rule R220). -/
def foldJByte (c : Byte) : Byte := if c = 0x4A then 0x49 else c

/-- A letter: a byte in 0x41..0x5A (rule R18). -/
def isLetter (c : Byte) : Bool := decide (0x41 ≤ c ∧ c ≤ 0x5A)

/-- `Knorm(c)`: `none` is DISCARD (rule R220). -/
def keyLetter (c : Byte) : Option Byte :=
  let x := foldJByte (upcaseByte c)
  if isLetter x then some x else none

/-- A square letter's place in ALPHA25 (rule R18), 25 for any other byte. -/
def alphaIndex (c : Byte) : Nat := Config.alpha25.idxOf c

/-! ### Building the square -/

/-- SQ, SQN and SEEN during a build (rule R34). -/
structure Square where
  sq : Vector Byte 25
  sqn : Nat
  seen : Vector Bool 25

/-- `c ∈ SEEN`. -/
def Square.hasSeen (q : Square) (c : Byte) : Bool := q.seen.getD (alphaIndex c) false

/-- `if c not in SEEN: SQ[SQN] <- c; SQN <- SQN + 1; SEEN <- SEEN ∪ {c}` (rules R223, R224). -/
def Square.place (q : Square) (c : Byte) : Square :=
  if q.hasSeen c then q
  else
    { sq := q.sq.setIfInBounds q.sqn c
      sqn := q.sqn + 1
      seen := q.seen.setIfInBounds (alphaIndex c) true }

/-- One key byte (rule R223). -/
def Square.feedByte (q : Square) (c : Byte) : Square :=
  match keyLetter c with
  | none => q
  | some x => q.place x

/-- The key bytes in index order (rule R223). -/
def Square.feed (q : Square) (key : List Byte) : Square := key.foldl Square.feedByte q

/-- The remaining letters in ALPHA25 order (rule R224). -/
def Square.fill (q : Square) : Square := Config.alpha25.foldl Square.place q

/-- The state's SQ, SQN and SEEN. -/
def State.square (s : State) : Square := { sq := s.sq, sqn := s.sqn, seen := s.seen }

/-- Writes SQ, SQN and SEEN. -/
def State.setSquare (s : State) (q : Square) : State :=
  { s with sq := q.sq, sqn := q.sqn, seen := q.seen }

/-! ### Lookups -/

/-- `SQ[5*row + col]` (rule R34). -/
def cell (sq : Vector Byte 25) (row col : Nat) : Byte := sq.getD (5 * row + col) 0

/-- `c` is in SQ. -/
def inSquare (sq : Vector Byte 25) (c : Byte) : Bool := sq.toList.contains c

/-- `RMAP(c) = (idx div 5, idx mod 5)` for the idx with SQ[idx] = c (rule R225), the first one where a
square that no run builds holds c twice (notes/assumptions/12.md). -/
def coordOf (sq : Vector Byte 25) (c : Byte) : Nat × Nat :=
  (sq.toList.idxOf c / 5, sq.toList.idxOf c % 5)

/-! ### Commands -/

/-- PS_START (rule R222): a valid square is destroyed at once. -/
def execPsStart (s : State) : Result :=
  ({ s with
      sq := Vector.replicate 25 0, sqn := 0, seen := Vector.replicate 25 false
      sqb := true, sqv := false } : State).succeed

/-- PS_FEED (rule R223). -/
def execPsFeed (len : Nat) (s : State) : Result :=
  s.require (decide (len ≤ 64)) .len <|
  s.require s.sqb .seq
    (s.setSquare (s.square.feed (s.operand len))).succeed

/-- PS_FINISH (rule R224). -/
def execPsFinish (s : State) : Result :=
  s.require s.sqb .seq
    ({ s.setSquare s.square.fill with sqb := false, sqv := true } : State).succeed

/-- PS_LOOK (rule R226): (row, col) to letter. -/
def execPsLook (row col : Nat) (s : State) : Result :=
  s.require s.sqv .noSq <|
  s.require (decide (row < 5) && decide (col < 5)) .range
    ({ s with result := (cell s.sq row col).setWidth 32 } : State).succeed

/-- PS_RLOOK (rule R227): letter to `row << 4 | col`, with no case mapping and no J folding. -/
def execPsRlook (c : Byte) (s : State) : Result :=
  s.require s.sqv .noSq <|
  s.require (inSquare s.sq c) .char
    ({ s with
        result := (BitVec.ofNat 32 (coordOf s.sq c).1 <<< 4) ||| BitVec.ofNat 32 (coordOf s.sq c).2 }
      : State).succeed

end Sys2Proof.Machine
end

