-- ==== Sys2Proof/Machine/Bifid.lean ====
section
/-! DEFINITION. fractionating_substitution_cipher, part 2 (45_bifid.md): BF_FILTER, BF_ENC, BF_DEC. -/

namespace Sys2Proof.Machine

/-- What the text filter makes of one byte (rule R250); `none` when it is dropped. -/
def filterByte (upcase foldj : Bool) (c : Byte) : Option Byte :=
  let c := if upcase then upcaseByte c else c
  let c := if foldj then foldJByte c else c
  if isLetter c then some c else none

/-- The text filter (rule R250). -/
def filterText (upcase foldj : Bool) (text : List Byte) : List Byte :=
  text.filterMap (filterByte upcase foldj)

/-- The square's letters at the pairs of a coordinate sequence, two at a time (rule R252). -/
def cellsOfPairs (sq : Vector Byte 25) : List Nat → List Byte
  | row :: col :: rest => cell sq row col :: cellsOfPairs sq rest
  | _ => []

/-- The chunk transform of BF_ENC (rule R252): `rows ++ cols`, read in pairs. -/
def bifidEncrypt (sq : Vector Byte 25) (x : List Byte) : List Byte :=
  cellsOfPairs sq (x.map (fun c => (coordOf sq c).1) ++ x.map (fun c => (coordOf sq c).2))

/-- The flattened coordinates of a chunk (rule R253). -/
def flatCoords (sq : Vector Byte 25) (y : List Byte) : List Nat :=
  y.flatMap fun c => [(coordOf sq c).1, (coordOf sq c).2]

/-- The chunk transform of BF_DEC (rule R253): the flat sequence split in half, re-paired. -/
def bifidDecrypt (sq : Vector Byte 25) (y : List Byte) : List Byte :=
  List.zipWith (cell sq) ((flatCoords sq y).take y.length) ((flatCoords sq y).drop y.length)

/-- BF_FILTER (rule R250): no square is needed. -/
def execBfFilter (len : Nat) (upcase foldj : Bool) (s : State) : Result :=
  s.require (decide (len ≤ 64)) .len
    (s.produce (filterText upcase foldj (s.operand len))).succeed

/-- BF_ENC (rule R252). -/
def execBfEnc (len : Nat) (s : State) : Result :=
  s.require (decide (len ≤ 64)) .len <|
  s.require s.sqv .noSq <|
  s.require ((s.operand len).all (inSquare s.sq)) .char
    (s.produce (bifidEncrypt s.sq (s.operand len))).succeed

/-- BF_DEC (rule R253). -/
def execBfDec (len : Nat) (s : State) : Result :=
  s.require (decide (len ≤ 64)) .len <|
  s.require s.sqv .noSq <|
  s.require ((s.operand len).all (inSquare s.sq)) .char
    (s.produce (bifidDecrypt s.sq (s.operand len))).succeed

end Sys2Proof.Machine
end

