-- ==== Sys2Proof/Machine/BlockCipher.lean ====
section
/-! DEFINITION. block_cipher_core (41_block_cipher.md): the key schedule, the block transform, BC_KEY
and BC_ENC. -/

namespace Sys2Proof.Machine

/-- `f` applied n times. -/
def iterate {α : Type} (f : α → α) : Nat → α → α
  | 0, x => x
  | n + 1, x => iterate f n (f x)

/-! ### Key schedule -/

/-- n words from `x` on, each the one before it plus Q (rule R130). -/
def addQ : Nat → Word → List Word
  | 0, _ => []
  | n + 1, x => x :: addQ n (x + Config.keyQ)

/-- The arrays and accumulators of the key mixing (rule R131). -/
structure Mixing where
  S : Vector Word 44
  L : Vector Word 4
  a : Word
  b : Word
  i : Fin 44
  j : Fin 4

/-- The arrays before mixing (rules R130, R131). -/
def mixStart (key : List Byte) : Mixing where
  S := vecOfList 44 0 (addQ 44 Config.keyP)
  L := #v[leWord key 0, leWord key 1, leWord key 2, leWord key 3]
  a := Config.mixStartA
  b := Config.mixStartB
  i := Config.mixStartI
  j := Config.mixStartJ

/-- One mixing iteration (rule R131); b uses the a just computed. -/
def mixStep (m : Mixing) : Mixing :=
  let a := rol (m.S[m.i] + m.a + m.b) 3
  let b := rol (m.L[m.j] + a + m.b) (a + m.b).toNat
  { S := m.S.set m.i a
    L := m.L.set m.j b
    a := a
    b := b
    i := m.i + 1
    j := m.j + 1 }

/-- `KeyExpand(key)` (rules R130, R131): 3 · max(44, 4) = 132 mixing iterations. -/
def keyExpand (key : List Byte) : Vector Word 44 := (iterate mixStep 132 (mixStart key)).S

/-! ### Block transform -/

/-- The words A, B, C, D of the block transform (rule R132). -/
structure BlockRegs where
  A : Word
  B : Word
  C : Word
  D : Word

/-- Word k of the key schedule. -/
def schedWord (S : Vector Word 44) (k : Nat) : Word := S.getD k 0

/-- The block's words after pre-whitening (rule R132). -/
def blockStart (S : Vector Word 44) (blk : List Byte) : BlockRegs where
  A := leWord blk 0
  B := leWord blk 1 + schedWord S 0
  C := leWord blk 2
  D := leWord blk 3 + schedWord S 1

/-- Round i, with the rotation (A, B, C, D) <- (B, C, D, A) at its end (rule R132). -/
def blockRound (S : Vector Word 44) (r : BlockRegs) (i : Nat) : BlockRegs :=
  let t := rol (Config.product r.B (2 * r.B + 1)) 5
  let u := rol (Config.product r.D (2 * r.D + 1)) 5
  let a := rol (r.A ^^^ t) u.toNat + schedWord S (2 * i)
  let c := rol (r.C ^^^ u) t.toNat + schedWord S (2 * i + 1)
  { A := r.B, B := c, C := r.D, D := a }

/-- The output block, after the last additions (rule R132). -/
def blockOut (S : Vector Word 44) (r : BlockRegs) : List Byte :=
  leBytes (r.A + schedWord S 42) ++ leBytes r.B ++ leBytes (r.C + schedWord S 43) ++ leBytes r.D

/-- The block transform `E(S, blk)` (rule R132): rounds 1 to 20. -/
def blockTransform (S : Vector Word 44) (blk : List Byte) : List Byte :=
  blockOut S ((List.range' 1 20).foldl (blockRound S) (blockStart S blk))

/-! ### Commands -/

/-- BC_KEY (rule R134): the schedule of SNAP[0..16), and any open stream is ended. -/
def execBcKey (s : State) : Result :=
  ({ s with sched := keyExpand (s.operand 16), ksv := true } : State).endStream.succeed

/-- BC_ENC (rule R136): one forward transform of SNAP[0..16). -/
def execBcEnc (s : State) : Result :=
  s.require s.ksv .noKey
    (s.produce (blockTransform s.sched (s.operand 16))).succeed

end Sys2Proof.Machine
end

