-- ==== Sys2Proof/Machine/Control.lean ====
section
/-! DEFINITION. NOP and ZEROIZE (40_control.md). -/

namespace Sys2Proof.Machine

/-- NOP (rule R120): no internal state is written. OVR was cleared at acceptance (rule R36). -/
def execNop (s : State) : Result := s.succeed

/-- ZEROIZE's writes (rule R121). CMD, OVR and SNAP keep their values. -/
def State.zeroize (s : State) : State :=
  { s with
    sched := Vector.replicate 44 0, ksv := false
    civ := Vector.replicate 16 0, ivv := false
    h := Vector.replicate 5 0, mlen := 0, hact := false
    sq := Vector.replicate 25 0, sqn := 0, seen := Vector.replicate 25 false
    sqb := false, sqv := false
    din := Vector.replicate 64 0, dout := Vector.replicate 64 0, outlen := 0, result := 0 }

/-- ZEROIZE (rule R121). -/
def execZeroize (s : State) : Result := s.zeroize.succeed

end Sys2Proof.Machine
end

