-- ==== Sys2Proof/Machine/Hash.lean ====
section
/-! DEFINITION. hash_160 (43_hash160.md): the compression, the padded tail, H_INIT, H_BLK and H_FIN. -/

namespace Sys2Proof.Machine

/-! ### Functions -/

/-- The round function `f(t, b, c, d)` (rule R192). -/
def hashF (t : Nat) (b c d : Word) : Word :=
  if t < 20 then (b &&& c) ||| (~~~b &&& d)
  else if t < 40 then b ^^^ c ^^^ d
  else if t < 60 then (b &&& c) ||| (b &&& d) ||| (c &&& d)
  else b ^^^ c ^^^ d

/-- The next word of the message schedule, `w[t]` for t the number of words so far (rule R190). -/
def scheduleNext (w : List Word) : List Word :=
  let t := w.length
  w ++ [rol (w.getD (t - 3) 0 ^^^ w.getD (t - 8) 0 ^^^ w.getD (t - 14) 0 ^^^ w.getD (t - 16) 0) 1]

/-- The message schedule `w[0..79]` (rule R190). -/
def messageSchedule (M : List Byte) : List Word :=
  iterate scheduleNext 64 ((List.range 16).map (beWord M))

/-- The working words a..e (rule R190). -/
structure HashRegs where
  a : Word
  b : Word
  c : Word
  d : Word
  e : Word

/-- Round t (rule R190). -/
def hashRound (w : List Word) (r : HashRegs) (t : Nat) : HashRegs where
  a := rol r.a 5 + hashF t r.b r.c r.d + r.e + Config.hashK t + w.getD t 0
  b := r.a
  c := rol r.b 30
  d := r.c
  e := r.d

/-- `Compress(H, M)` (rule R190): 80 rounds and the feed-forward addition. -/
def compress (H : Vector Word 5) (M : List Byte) : Vector Word 5 :=
  let r := (List.range 80).foldl (hashRound (messageSchedule M)) ⟨H[0], H[1], H[2], H[3], H[4]⟩
  #v[H[0] + r.a, H[1] + r.b, H[2] + r.c, H[3] + r.d, H[4] + r.e]

/-- `Digest(H)` (rule R196): 20 bytes, big-endian words. -/
def digestBytes (H : Vector Word 5) : List Byte := H.toList.flatMap beBytes

/-- The number of zero bytes in the tail of n bytes (rule R197). -/
def tailZeros (n : Nat) : Nat := if n ≤ 55 then 55 - n else 119 - n

/-- `Tail(r, Lbits)` (rule R197). -/
def hashTail (r : List Byte) (lbits : BitVec 64) : List Byte :=
  r ++ [0x80] ++ List.replicate (tailZeros r.length) 0 ++ beBytes64 lbits

/-- The state after the tail's one or two blocks (rule R195). -/
def absorbTail (H : Vector Word 5) (T : List Byte) : Vector Word 5 :=
  let G := compress H (T.take 64)
  if T.length = 128 then compress G (T.drop 64) else G

/-! ### Commands -/

/-- H_INIT (rule R193): a digest in progress is abandoned. -/
def execHInit (s : State) : Result :=
  ({ s with h := Config.hashInit, mlen := 0, hact := true } : State).succeed

/-- H_BLK (rule R194): absorb SNAP[0..64). -/
def execHBlk (s : State) : Result :=
  s.require s.hact .noHash
    ({ s with h := compress s.h (s.operand 64), mlen := s.mlen + 512 } : State).succeed

/-- H_FIN (rule R195): absorb the last bytes, pad, output the digest, end the digest. -/
def execHFin (len : Nat) (s : State) : Result :=
  s.require (decide (len ≤ 63)) .len <|
  s.require s.hact .noHash <|
    let tail := hashTail (s.operand len) (s.mlen + BitVec.ofNat 64 (8 * len))
    ({ s.produce (digestBytes (absorbTail s.h tail)) with
        h := Vector.replicate 5 0, mlen := 0, hact := false } : State).succeed

end Sys2Proof.Machine
end

