-- ==== Sys2Proof/Machine/Stream.lean ====
section
/-! DEFINITION. stream_cipher_mode (42_stream_mode.md): output feedback, padding, OFB_IV, OFB_BLK,
OFB_ENC_FIN and OFB_DEC_FIN. -/

namespace Sys2Proof.Machine

/-- The keystream block `K = E(S, CIV)` (rule R160). -/
def State.keystream (s : State) : List Byte := blockTransform s.sched s.civ.toList

/-- `CIV <- x`, for the 16 bytes x. -/
def State.setCiv (s : State) (x : List Byte) : State := { s with civ := vecOfList 16 0 x }

/-- `Pad(x)` (rule R166): N bytes of value N, N = 16 − n. -/
def pkcsPad (x : List Byte) : List Byte :=
  x ++ List.replicate (16 - x.length) (BitVec.ofNat 8 (16 - x.length))

/-- The padding count p of a final block: its last byte (rule R167). -/
def padCount (x : List Byte) : Nat := (byteAt x 15).toNat

/-- `Valid(X)` (rule R167): p in 1..16, and the last p bytes all equal to p. -/
def padValid (x : List Byte) : Bool :=
  decide (1 ≤ padCount x) && decide (padCount x ≤ 16) &&
    decide (x.drop (16 - padCount x) = List.replicate (padCount x) (BitVec.ofNat 8 (padCount x)))

/-- `Unpad(X)` (rule R167). -/
def pkcsUnpad (x : List Byte) : List Byte := x.take (16 - padCount x)

/-- OFB_IV (rule R162): no key is needed. -/
def execOfbIv (s : State) : Result :=
  ({ s.setCiv (s.operand 16) with ivv := true } : State).succeed

/-- OFB_BLK (rule R163): one full block in either direction. -/
def execOfbBlk (s : State) : Result :=
  s.require s.ksv .noKey <|
  s.require s.ivv .noIv <|
    ((s.produce (xorBytes (s.operand 16) s.keystream)).setCiv s.keystream).succeed

/-- OFB_ENC_FIN (rule R164): pad and encrypt the final bytes, end the stream. -/
def execOfbEncFin (len : Nat) (s : State) : Result :=
  s.require (decide (len ≤ 15)) .len <|
  s.require s.ksv .noKey <|
  s.require s.ivv .noIv <|
    (s.produce (xorBytes (pkcsPad (s.operand len)) s.keystream)).endStream.succeed

/-- OFB_DEC_FIN (rule R165): decrypt the final block, check and strip the padding, end the stream. -/
def execOfbDecFin (s : State) : Result :=
  let x := xorBytes (s.operand 16) s.keystream
  s.require s.ksv .noKey <|
  s.require s.ivv .noIv <|
  s.require (padValid x) .pad <|
    (s.produce (pkcsUnpad x)).endStream.succeed

end Sys2Proof.Machine
end

