-- ==== Sys2Proof/Machine/Dispatch.lean ====
section
/-! DEFINITION. `Exec(v, SNAP, state)` of rule R67 for a decoded command: one arm per command. -/

namespace Sys2Proof.Machine

def exec (i : Instr) (s : State) : Host.Outcome State Fault Refusal :=
  match i with
  | .nop => Sys2Proof.Machine.execNop s
  | .zeroize => Sys2Proof.Machine.execZeroize s
  | .bcKey => Sys2Proof.Machine.execBcKey s
  | .bcEnc => Sys2Proof.Machine.execBcEnc s
  | .ofbIv => Sys2Proof.Machine.execOfbIv s
  | .ofbBlk => Sys2Proof.Machine.execOfbBlk s
  | .ofbEncFin len => Sys2Proof.Machine.execOfbEncFin len s
  | .ofbDecFin => Sys2Proof.Machine.execOfbDecFin s
  | .hInit => Sys2Proof.Machine.execHInit s
  | .hBlk => Sys2Proof.Machine.execHBlk s
  | .hFin len => Sys2Proof.Machine.execHFin len s
  | .psStart => Sys2Proof.Machine.execPsStart s
  | .psFeed len => Sys2Proof.Machine.execPsFeed len s
  | .psFinish => Sys2Proof.Machine.execPsFinish s
  | .psLook row col => Sys2Proof.Machine.execPsLook row col s
  | .psRlook c => Sys2Proof.Machine.execPsRlook c s
  | .bfFilter len upcase foldj => Sys2Proof.Machine.execBfFilter len upcase foldj s
  | .bfEnc len => Sys2Proof.Machine.execBfEnc len s
  | .bfDec len => Sys2Proof.Machine.execBfDec len s

end Sys2Proof.Machine
end

