-- ==== Sys2Proof/Machine/Engine.lean ====
section
/-! DEFINITION. The engine's completion step (rule R67), the events of the total order (rule R72), and
how a command word comes to stand in PEND. -/

namespace Sys2Proof.Machine

/-- The error a failing decode step raises (rules R98, R280). -/
def decodeErrCode : DecodeError → ErrCode
  | .rsvd => .badCmd
  | .reservedOp => .badCmd
  | .argForm => .badCmd
  | .badLen => .len

/-- `Exec(v, SNAP, state)` (rule R67) of any 32-bit word: decode, then the command's rule. -/
def State.execWord (s : State) (v : Word) : Result :=
  match decode v with
  | .error e => s.raise (decodeErrCode e)
  | .ok i => exec i s

/-- The end of the completion step: PEND is emptied (rule R67). -/
def retireResult : Result → Result
  | .next s => .next s.retire
  | .fault r => .fault r
  | .refused r => .refused r

/-- The engine's turn (rule R67): it completes the command in PEND, and waits when there is none. -/
def State.engineTurn (s : State) : Result :=
  match s.pend with
  | none => .next s
  | some v => retireResult (s.execWord v)

/-- What one event does to the block (rules R67, R72, R77, R310). -/
def State.event (s : State) : Event → Result
  | .access a => s.access a
  | .reset => .next s.hwReset
  | .engine => s.engineTurn

/-- One step: the next event of the agenda; when none is left, the engine's turn
(notes/assumptions/1.md and 2.md). -/
def State.advance (s : State) : Result :=
  match s.agenda with
  | [] => s.engineTurn
  | e :: rest => ({ s with agenda := rest } : State).event e

/-- A command word in PEND with the engine's completion step due next (notes/assumptions/9.md). -/
def State.withCommand (s : State) (v : Word) : State :=
  { s with pend := some v, agenda := .engine :: s.agenda }

end Sys2Proof.Machine
end

