-- ==== Sys2Proof/Machine/Step.lean ====
section
/-! DEFINITION. The step of the machine, and the state whose next step runs a given command word. -/

namespace Sys2Proof.Machine

/-- One step of the block: the next event in the total order of rule R72. -/
def step (s : State) : Host.Outcome State Fault Refusal := s.advance

/-- The command word `w` (bits at and above `nbits` zero) stands in PEND and the engine's completion
step comes next, so that the next step runs it (notes/assumptions/9.md). -/
def State.withFetchWord (s : State) (nbits w : Nat) : State :=
  s.withCommand (BitVec.ofNat 32 (w % 2 ^ nbits))

end Sys2Proof.Machine
end

