-- ==== Sys2Proof/Machine/Procedures.lean ====
section
/-! DEFINITION. The host's notation and procedures as event sequences of the block: rules R99, R100 and
R126 to R129. They are host software (rule R6), written here so that the spec's properties of them
(rules R168 to R171, R198, R228, R255) can be stated over the block's own events. -/

namespace Sys2Proof.Machine

/-! ### The assembler's words (rules R99, R100) -/

/-- `WR <reg>, v` (rule R99). -/
def evWrite (off : Nat) (v : Word) : Event :=
  .access { off := off, size := 4, data := some v, cached := false }

/-- `RD <reg>` (rule R99). -/
def evRead (off : Nat) : Event :=
  .access { off := off, size := 4, data := none, cached := false }

/-- `LOADB bytes` (rule R99): DINb from index 0, four bytes at a time, the last word padded with 0. -/
def evLoadb (bytes : List Byte) : List Event :=
  (List.range ((bytes.length + 3) / 4)).map fun k => evWrite (offDin + 4 * k) (leWord bytes k)

/-- `ISSUE c` (rule R100): the CMD write, and the completion that WAIT polls for. -/
def evIssue (i : Instr) : List Event := [evWrite offCmd (encode i), .engine]

/-- The events in order, stopping at the first fault or refusal. -/
def State.runEvents (s : State) : List Event → Result
  | [] => .next s
  | e :: es =>
    match s.event e with
    | .next t => t.runEvents es
    | .fault r => .fault r
    | .refused r => .refused r

/-- `LOADB bytes; RUN i` (rule R100): the state after it. `none` where CHECK finds an error, and where an
operand of `i` is outside the ranges of rule R95, so that no legal word issues `i`: a LEN of 256 or
more is not cut to 8 bits (notes/assumptions/22.md). -/
def State.runCommand (s : State) (bytes : List Byte) (i : Instr) : Option State :=
  if i.wellFormed then
    match s.runEvents (evLoadb bytes ++ evIssue i) with
    | .next t => if t.errcode = 0 then some t else none
    | _ => none
  else none

/-- `READOUT` (rule R100): the OUTLEN bytes of DOUT. -/
def State.readout (s : State) : List Byte := s.dout.toList.take s.outlen.toNat

/-! ### Whole messages (rules R126 to R129) -/

/-- OFB_BLK on the first n 16-byte blocks of a text, one after the other: the blocks read out, joined,
and the last state (rules R126, R127). -/
def State.runOfbBlocks (s : State) : Nat → List Byte → Option (List Byte × State)
  | 0, _ => some ([], s)
  | n + 1, text => do
    let t ← s.runCommand (text.take 16) .ofbBlk
    let (rest, u) ← t.runOfbBlocks n (text.drop 16)
    some (t.readout ++ rest, u)

/-- OFB_IV with a host's IV bytes (rules R123, R126): a count other than 16 fails, as the E_LEN that its
LEN raises. -/
def State.runOfbIv (s : State) (iv : List Byte) : Option State :=
  if iv.length = 16 then s.runCommand iv .ofbIv else none

/-- `encrypt(plaintext, iv)` (rule R126), for a key already loaded. -/
def State.ofbEncrypt (s : State) (iv plain : List Byte) : Option (List Byte × State) := do
  let s1 ← s.runOfbIv iv
  let (blocks, s2) ← s1.runOfbBlocks (plain.length / 16) plain
  let s3 ← s2.runCommand (plain.drop (16 * (plain.length / 16))) (.ofbEncFin (plain.length % 16))
  some (blocks ++ s3.readout, s3)

/-- `decrypt(ciphertext, iv)` (rule R127), for a key already loaded. -/
def State.ofbDecrypt (s : State) (iv cipher : List Byte) : Option (List Byte × State) :=
  if cipher.length = 0 ∨ cipher.length % 16 ≠ 0 then none
  else do
    let s1 ← s.runOfbIv iv
    let (blocks, s2) ← s1.runOfbBlocks (cipher.length / 16 - 1) cipher
    let s3 ← s2.runCommand (cipher.drop (cipher.length - 16)) .ofbDecFin
    some (blocks ++ s3.readout, s3)

/-- H_BLK on the first n 64-byte blocks of a message (rule R128). -/
def State.runHashBlocks (s : State) : Nat → List Byte → Option State
  | 0, _ => some s
  | n + 1, text => do
    let t ← s.runCommand (text.take 64) .hBlk
    t.runHashBlocks n (text.drop 64)

/-- `hash(bytes)` (rule R128). -/
def State.hashMessage (s : State) (msg : List Byte) : Option (List Byte × State) := do
  let s1 ← s.runCommand [] .hInit
  let s2 ← s1.runHashBlocks (msg.length / 64) msg
  let s3 ← s2.runCommand (msg.drop (64 * (msg.length / 64))) (.hFin (msg.length % 64))
  some (s3.readout, s3)

/-- PS_FEED on each piece of a key (rule R129). -/
def State.runFeeds (s : State) : List (List Byte) → Option State
  | [] => some s
  | p :: ps => do
    let t ← s.runCommand p (.psFeed p.length)
    t.runFeeds ps

/-- The square of a key already cut into pieces: PS_START, a PS_FEED for each, PS_FINISH (rules R129,
R228). -/
def State.buildSquareFrom (s : State) (pieces : List (List Byte)) : Option State := do
  let s1 ← s.runCommand [] .psStart
  let s2 ← s1.runFeeds pieces
  s2.runCommand [] .psFinish

/-- A text cut into pieces of n bytes, the last one shorter (rule R129), for n ≥ 1; `fuel` bounds their
number. -/
def piecesOf (n : Nat) : Nat → List Byte → List (List Byte)
  | 0, _ => []
  | fuel + 1, text => if text = [] then [] else text.take n :: piecesOf n fuel (text.drop n)

/-- The construction from a key string k of any length (rule R129): k is fed in 64-byte pieces. -/
def State.buildSquare (s : State) (key : List Byte) : Option State :=
  s.buildSquareFrom (piecesOf 64 key.length key)

/-- One command on each piece of a text, the outputs joined (rule R129). -/
def State.runPieces (s : State) (cmd : Nat → Instr) : List (List Byte) → Option (List Byte × State)
  | [] => some ([], s)
  | p :: ps => do
    let t ← s.runCommand p (cmd p.length)
    let (rest, u) ← t.runPieces cmd ps
    some (t.readout ++ rest, u)

/-- The period of a text procedure is in 1..64 (rules R129, R255, decision D27). -/
def periodValid (period : Nat) : Bool := decide (1 ≤ period) && decide (period ≤ 64)

/-- A text procedure of rule R129: filter the text by 64-byte pieces, then run one command on each chunk
of `period` letters. A period outside 1..64, period 0 among them, is refused, as U12 asks
(93_implementation_defined.md), whatever the text: the answer is `none` and no command is issued
(notes/assumptions/22.md). -/
def State.bifidText (s : State) (filter chunk : Nat → Instr) (period : Nat) (text : List Byte) :
    Option (List Byte × State) :=
  if periodValid period then do
    let (t, s1) ← s.runPieces filter (piecesOf 64 text.length text)
    s1.runPieces chunk (piecesOf period t.length t)
  else none

/-- `Encrypt(text, period)` (rule R129): filter with UPCASE and FOLDJ, then BF_ENC by chunks. -/
def State.bifidEncryptText (s : State) (period : Nat) (text : List Byte) :
    Option (List Byte × State) :=
  s.bifidText (fun n => .bfFilter n true true) .bfEnc period text

/-- `Decrypt(text, period)` (rule R129, decision D26): filter with UPCASE only, then BF_DEC by chunks. -/
def State.bifidDecryptText (s : State) (period : Nat) (text : List Byte) :
    Option (List Byte × State) :=
  s.bifidText (fun n => .bfFilter n true false) .bfDec period text

end Sys2Proof.Machine
end

