-- ==== Sys2Proof/Safety.lean ====
section
/-! DEFINITION. The terms the claims use: the invariants of rule R39 and of the window, the spec's
functions as relations written from its recurrences, and the source's whole-message functions of
rules R168, R169, R198, R221. -/

namespace Sys2Proof.Machine

/-! ### The block alone -/

/-- The state of the block less the model's own fields: what is left is state that the spec names. -/
abbrev State.block (s : State) : State := { s with agenda := [], rdata := none, draws := 0 }

/-! ### Invariants -/

/-- The first SQN cells of the square. -/
abbrev State.filled (s : State) : List Byte := s.sq.toList.take s.sqn

/-- The six invariants of rule R39, in its order (10_state.md section 5). -/
abbrev State.EngineInv (s : State) : Prop :=
  (s.sqb = true → s.sqv = false) ∧
  (s.sqv = true → s.sqn = 25 ∧ s.sq.toList.Perm Config.alpha25) ∧
  (s.sqb = true →
    s.sqn ≤ 25 ∧ s.filled.Nodup ∧ (∀ c ∈ s.filled, c ∈ Config.alpha25) ∧
    (∀ c ∈ Config.alpha25, s.seen.getD (alphaIndex c) false = decide (c ∈ s.filled)) ∧
    s.sq.toList.drop s.sqn = List.replicate (25 - s.sqn) 0) ∧
  (s.ksv = false → s.sched = Vector.replicate 44 0) ∧
  (s.ivv = false → s.civ = Vector.replicate 16 0) ∧
  (s.hact = false → s.h = Vector.replicate 5 0 ∧ s.mlen = 0)

/-- What holds of the window's registers between events: OUTLEN is at most 64 and DOUT is zero past it
(rules R26, R28), ERRCODE is a code of rule R280 (U8), RESULT[31:8] = 0 (U9), and the command in flight
is the last accepted one (rules R23, R66). -/
abbrev State.WindowInv (s : State) : Prop :=
  s.outlen.toNat ≤ 64 ∧
  s.dout.toList.drop s.outlen.toNat = List.replicate (64 - s.outlen.toNat) 0 ∧
  s.errcode.toNat ≤ 0x0A ∧
  s.result.toNat < 256 ∧
  (s.pend = none ∨ s.pend = some s.cmd)

/-! ### The spec's functions as relations -/

/-- DOUT after an output-producing command: the output, then zeros (rule R28). -/
abbrev IsOutput (out : List Byte) (D : Vector Byte 64) : Prop :=
  out.length ≤ 64 ∧ D.toList = out ++ List.replicate (64 - out.length) 0

/-- `S = KeyExpand(key)`, by the recurrences of rules R130 and R131: `Sn n`, `Ln n`, `a n`, `b n` are the
arrays and accumulators after n of the 132 iterations, whose indices are n mod 44 and n mod 4. -/
def IsKeyExpansion (key : List Byte) (S : Vector Word 44) : Prop :=
  ∃ (Sn Ln : Nat → Nat → Word) (a b : Nat → Word),
    Sn 0 0 = 0xB7E15163 ∧ (∀ i, i < 43 → Sn 0 (i + 1) = Sn 0 i + 0x9E3779B9) ∧
    (∀ j, j < 4 → Ln 0 j = leWord key j) ∧ a 0 = 0 ∧ b 0 = 0 ∧
    (∀ n, n < 132 →
      a (n + 1) = rol (Sn n (n % 44) + a n + b n) 3 ∧
      b (n + 1) = rol (Ln n (n % 4) + a (n + 1) + b n) (a (n + 1) + b n).toNat ∧
      (∀ k, k < 44 → Sn (n + 1) k = if k = n % 44 then a (n + 1) else Sn n k) ∧
      (∀ k, k < 4 → Ln (n + 1) k = if k = n % 4 then b (n + 1) else Ln n k)) ∧
    ∀ k (h : k < 44), S[k] = Sn 132 k

/-- `X = E(S, blk)`, by the recurrence of rule R132: `A i` to `D i` are the words after i rounds. -/
def IsBlockTransform (S : Vector Word 44) (blk X : List Byte) : Prop :=
  ∃ A B C D : Nat → Word,
    A 0 = leWord blk 0 ∧ B 0 = leWord blk 1 + S[0] ∧ C 0 = leWord blk 2 ∧
    D 0 = leWord blk 3 + S[1] ∧
    (∀ i (h : i < 20),
      let t := rol (B i * (2 * B i + 1)) 5
      let u := rol (D i * (2 * D i + 1)) 5
      A (i + 1) = B i ∧ B (i + 1) = rol (C i ^^^ u) t.toNat + S[2 * (i + 1) + 1] ∧
      C (i + 1) = D i ∧ D (i + 1) = rol (A i ^^^ t) u.toNat + S[2 * (i + 1)]) ∧
    X = leBytes (A 20 + S[42]) ++ leBytes (B 20) ++ leBytes (C 20 + S[43]) ++ leBytes (D 20)

/-- `G = Compress(H, M)`, by the recurrences of rule R190: `w` is the message schedule and `a t` to `e t`
the working words after t rounds. -/
def IsCompression (H : Vector Word 5) (M : List Byte) (G : Vector Word 5) : Prop :=
  ∃ w a b c d e : Nat → Word,
    (∀ t, t < 16 → w t = beWord M t) ∧
    (∀ t, 16 ≤ t → t < 80 → w t = rol (w (t - 3) ^^^ w (t - 8) ^^^ w (t - 14) ^^^ w (t - 16)) 1) ∧
    a 0 = H[0] ∧ b 0 = H[1] ∧ c 0 = H[2] ∧ d 0 = H[3] ∧ e 0 = H[4] ∧
    (∀ t, t < 80 →
      a (t + 1) = rol (a t) 5 + hashF t (b t) (c t) (d t) + e t + Config.hashK t + w t ∧
      b (t + 1) = a t ∧ c (t + 1) = rol (b t) 30 ∧ d (t + 1) = c t ∧ e (t + 1) = d t) ∧
    G[0] = H[0] + a 80 ∧ G[1] = H[1] + b 80 ∧ G[2] = H[2] + c 80 ∧ G[3] = H[3] + d 80 ∧
    G[4] = H[4] + e 80

/-! ### The source's whole-message functions -/

/-- The first n keystream blocks, joined: K_1 = E(S, x) and K_(q+1) = E(S, K_q) (rule R168). -/
def keystreamFrom (S : Vector Word 44) : Nat → List Byte → List Byte
  | 0, _ => []
  | n + 1, x => blockTransform S x ++ keystreamFrom S n (blockTransform S x)

/-- The source's padding of a whole message: N bytes of value N, N = 16 − (len mod 16) (rule R168). -/
def padMessage (plain : List Byte) : List Byte :=
  plain ++ List.replicate (16 - plain.length % 16) (BitVec.ofNat 8 (16 - plain.length % 16))

/-- The source's `encrypt(plaintext, iv)` (rule R168). -/
def sourceEncrypt (S : Vector Word 44) (iv plain : List Byte) : List Byte :=
  xorBytes (padMessage plain) (keystreamFrom S (plain.length / 16 + 1) iv)

/-- The source's removal of the padding (rules R167, R169): `none` when p is outside 1..16 or the last p
bytes are not all p. -/
def unpadMessage (x : List Byte) : Option (List Byte) :=
  let p := (byteAt x (x.length - 1)).toNat
  if 1 ≤ p ∧ p ≤ 16 ∧ x.drop (x.length - p) = List.replicate p (BitVec.ofNat 8 p) then
    some (x.take (x.length - p))
  else none

/-- The source's `decrypt(ciphertext, iv)` (rule R169): it fails on a length that is 0 or no multiple of
16, and on inconsistent padding. -/
def sourceDecrypt (S : Vector Word 44) (iv cipher : List Byte) : Option (List Byte) :=
  if cipher.length = 0 ∨ cipher.length % 16 ≠ 0 then none
  else unpadMessage (xorBytes cipher (keystreamFrom S (cipher.length / 16) iv))

/-- The whole padded message of the digest (rule R197): the byte 0x80, the least number of zero bytes
that makes the length a multiple of 64, and the bit length modulo 2^64. -/
def padForHash (msg : List Byte) : List Byte :=
  msg ++ [0x80] ++ List.replicate ((119 - msg.length % 64) % 64) 0 ++
    beBytes64 (BitVec.ofNat 64 (8 * msg.length))

/-- The source's `hash(bytes)` (rule R198): the padded message's 64-byte blocks compressed in order from
H_INIT, then serialised. -/
def sourceHash (msg : List Byte) : List Byte :=
  let m := padForHash msg
  digestBytes ((piecesOf 64 m.length m).foldl compress Config.hashInit)

/-- The first occurrence of each entry, in order (rule R221). -/
def dedupFirst : List Byte → List Byte
  | [] => []
  | c :: cs => c :: (dedupFirst cs).filter (fun x => x ≠ c)

/-- `Square(k)` (rule R221). -/
def sourceSquare (key : List Byte) : List Byte :=
  let seen := dedupFirst (key.filterMap keyLetter)
  seen ++ Config.alpha25.filter (fun c => c ∉ seen)

/-! ### The opcode table -/

/-- match, mask, len_min and len_max of the rows of spec/opcode_table.json, in its order (rule R95). -/
def opcodeTable : List (Word × Word × Nat × Nat) :=
  [ (0x00000000, 0xFFFFFFFF, 0, 0), (0x00000001, 0xFFFFFFFF, 0, 0),
    (0x00001010, 0xFFFFFFFF, 16, 16), (0x00001011, 0xFFFFFFFF, 16, 16),
    (0x00001020, 0xFFFFFFFF, 16, 16), (0x00001021, 0xFFFFFFFF, 16, 16),
    (0x00000022, 0xFFFFF0FF, 0, 15), (0x00001023, 0xFFFFFFFF, 16, 16),
    (0x00000030, 0xFFFFFFFF, 0, 0), (0x00004031, 0xFFFFFFFF, 64, 64),
    (0x00000032, 0xFFFFC0FF, 0, 63), (0x00000040, 0xFFFFFFFF, 0, 0),
    (0x00000041, 0xFFFF00FF, 0, 64), (0x00000042, 0xFFFFFFFF, 0, 0),
    (0x00000043, 0xFF88FFFF, 0, 0), (0x00000044, 0xFF00FFFF, 0, 0),
    (0x00000050, 0xFFFC00FF, 0, 64), (0x00000051, 0xFFFF00FF, 0, 64),
    (0x00000052, 0xFFFF00FF, 0, 64) ]

end Sys2Proof.Machine
end

