-- ==== Sys2Proof/Certificates/Slice0/Obligations.lean ====
section
/-! DEFINITION. The statements for the provers. Each docstring says which sentences of the spec it
formalises; a next state written `{ s with … }` says the frame too: every field not named is unchanged.
The block has no memory beside its registers (rules R61, R75), so the frame of memory is the frame of
DIN and DOUT. `t.block = { s.block with … }` says the same of every state the spec names and leaves the
model's own fields aside. The data that a host access returns stands in `rdata`
(notes/assumptions/4.md). -/

open Sys2Proof Sys2Proof.Machine

/-! ### Encoding and decoding -/

/-- Decoding an encoded well-formed command gives it back, every operand at every value (30_encoding.md
sections 1 to 3). -/
def Obligations.DecodeOfEncodeIsIdentity : Prop :=
  ∀ i : Instr, i.wellFormed = true → decode (encode i) = .ok i

/-- A word that decodes is the one encoding of the well-formed command it decodes to: no bit of a
command word is dropped, and no command has two words (30_encoding.md sections 1 to 3). -/
def Obligations.EncodeOfDecodeIsIdentity : Prop :=
  ∀ (v : Word) (i : Instr), decode v = .ok i → i.wellFormed = true ∧ encode i = v

/-- Rule R98: the checks of a command word in their order, each with the error it raises and nothing
else written, and the command rule where every check passes. -/
def Obligations.DecodeChecksRunInOrder : Prop :=
  ∀ (s : State) (v : Word),
    let op := v.extractLsb' 0 8
    let len := (v.extractLsb' 8 8).toNat
    let arg := v.extractLsb' 16 8
    let badCmd : State := { s with errcode := 0x01 }
    let badLen : State := { s with errcode := 0x02 }
    if v.extractLsb' 24 8 ≠ 0 then s.execWord v = .next badCmd
    else if op ∉ ([0x00, 0x01, 0x10, 0x11, 0x20, 0x21, 0x22, 0x23, 0x30, 0x31, 0x32, 0x40, 0x41,
        0x42, 0x43, 0x44, 0x50, 0x51, 0x52] : List Byte) then s.execWord v = .next badCmd
    else if op ∉ ([0x43, 0x44, 0x50] : List Byte) ∧ arg ≠ 0 then s.execWord v = .next badCmd
    else if op = 0x43 ∧ (arg.getLsbD 7 = true ∨ arg.getLsbD 3 = true) then
      s.execWord v = .next badCmd
    else if op = 0x50 ∧ 4 ≤ arg.toNat then s.execWord v = .next badCmd
    else if
        (op ∈ ([0x00, 0x01, 0x30, 0x40, 0x42, 0x43, 0x44] : List Byte) ∧ len ≠ 0) ∨
        (op ∈ ([0x10, 0x11, 0x20, 0x21, 0x23] : List Byte) ∧ len ≠ 16) ∨
        (op = 0x22 ∧ 15 < len) ∨ (op = 0x31 ∧ len ≠ 64) ∨ (op = 0x32 ∧ 63 < len) ∨
        (op ∈ ([0x41, 0x50, 0x51, 0x52] : List Byte) ∧ 64 < len) then
      s.execWord v = .next badLen
    else
      ∃ i : Instr, decode v = .ok i ∧ i.opByte = op ∧ i.lenByte.toNat = len ∧ i.argByte = arg ∧
        s.execWord v = exec i s

/-- A word passes every decode check exactly when its OP has a row of the opcode table whose mask test
and LEN range it meets (30_encoding.md section 3, the paragraph after the table). -/
def Obligations.WordDecodesExactlyByOpcodeTable : Prop :=
  ∀ v : Word, (∃ i, decode v = .ok i) ↔
    ∃ r ∈ opcodeTable, v &&& r.2.1 = r.1 ∧
      r.2.2.1 ≤ (v.extractLsb' 8 8).toNat ∧ (v.extractLsb' 8 8).toNat ≤ r.2.2.2

/-- The encoding examples of 30_encoding.md section 5, and its two words that raise errors. -/
def Obligations.SampleCommandWordsDecode : Prop :=
  decode 0x00000000 = .ok .nop ∧ decode 0x00001010 = .ok .bcKey ∧
  decode 0x00001021 = .ok .ofbBlk ∧ decode 0x00000022 = .ok (.ofbEncFin 0) ∧
  decode 0x00004031 = .ok .hBlk ∧ decode 0x00000332 = .ok (.hFin 3) ∧
  decode 0x00230043 = .ok (.psLook 2 3) ∧ decode 0x00510044 = .ok (.psRlook 0x51) ∧
  decode 0x00031250 = .ok (.bfFilter 18 true true) ∧ decode 0x00000551 = .ok (.bfEnc 5) ∧
  decode 0x01000000 = .error .rsvd ∧ decode 0x00001110 = .error .badLen

/-- Rules R94 and R96: a word in PEND with an RSVD bit set or a reserved OP completes with E_BADCMD and
no other effect. -/
def Obligations.ReservedWordsRaiseBadCommand : Prop :=
  ∀ (s : State) (v : Word), s.pend = some v →
    (let op := (v.extractLsb' 0 8).toNat
     v.extractLsb' 24 8 ≠ 0 ∨
      (0x02 ≤ op ∧ op ≤ 0x0F) ∨ (0x12 ≤ op ∧ op ≤ 0x1F) ∨ (0x24 ≤ op ∧ op ≤ 0x2F) ∨
      (0x33 ≤ op ∧ op ≤ 0x3F) ∨ (0x45 ≤ op ∧ op ≤ 0x4F) ∨ (0x53 ≤ op ∧ op ≤ 0xFF)) →
    s.engineTurn = .next { s with errcode := 0x01, pend := none }

/-! ### The step -/

/-- When the word in PEND decodes to a well-formed command and the engine's turn is next, the step is
that command's `exec`, and PEND is emptied (20_memory.md section 3). That the engine's turn is next
where the agenda is empty or begins with it is the model's choice (notes/assumptions/1.md). -/
def Obligations.StepRunsDecodedCommand : Prop :=
  ∀ (s : State) (v : Word) (i : Instr) (rest : List Event),
    s.pend = some v → decode v = .ok i → i.wellFormed = true →
    (s.agenda = .engine :: rest ∨ (s.agenda = [] ∧ rest = [])) →
    ∃ t, exec i { s with agenda := rest } = .next t ∧ step s = .next { t with pend := none }

/-- A word placed by `withFetchWord` is the one the next step runs (the model's interface,
notes/assumptions/9.md; 20_memory.md section 3). -/
def Obligations.FetchedWordRunsNext : Prop :=
  ∀ (s : State) (nbits w : Nat) (i : Instr), decodeTableWord nbits w = some i →
    ∃ t, exec i { s with pend := some (encode i) } = .next t ∧
      step (s.withFetchWord nbits w) = .next { t with pend := none }

/-- Events are served one at a time in their order (20_memory.md section 6): as many steps as the agenda
has events do what its events do one after the other. The agenda is the model's
(notes/assumptions/1.md). -/
def Obligations.StepsServeTheAgendaInOrder : Prop :=
  ∀ (es : List Event) (s : State),
    Sys2Proof.core.run es.length ({ s with agenda := es } : State) =
      ({ s with agenda := [] } : State).runEvents es

/-- An accepted command completes (70_reset_and_hazards.md section 4), whatever served accesses the host
makes before it does: after them and one more step, PEND is empty, and ERRCODE, the whole state of the
four units with its flags, and the outputs are the command's.
That the engine's turn comes when no event is left is the model's choice (notes/assumptions/1.md). -/
def Obligations.AcceptedCommandCompletes : Prop :=
  ∀ (s : State) (v : Word), s.pend = some v →
    (∀ e ∈ s.agenda, ∃ a : Access, e = .access a ∧
      (a.inWindow = true → a.cached = false ∧ a.aligned = true)) →
    ∃ t u : State, Sys2Proof.core.run (s.agenda.length + 1) s = .next t ∧
      s.execWord v = .next u ∧ t.pend = none ∧ t.agenda = [] ∧ t.errcode = u.errcode ∧
      t.sched = u.sched ∧ t.ksv = u.ksv ∧ t.civ = u.civ ∧ t.ivv = u.ivv ∧
      t.h = u.h ∧ t.mlen = u.mlen ∧ t.hact = u.hact ∧
      t.sq = u.sq ∧ t.sqn = u.sqn ∧ t.seen = u.seen ∧ t.sqb = u.sqb ∧ t.sqv = u.sqv ∧
      t.dout = u.dout ∧ t.outlen = u.outlen ∧ t.result = u.result

/-- Every command answers a next state, and writes none of CMD, OVR, PEND and SNAP, nor the model's own
agenda, read data and draw counter (20_memory.md section 3, 10_state.md sections 2 and 3). -/
def Obligations.EveryCommandAnswersNext : Prop :=
  ∀ (i : Instr) (s : State), ∃ t, exec i s = .next t ∧
    t.cmd = s.cmd ∧ t.ovr = s.ovr ∧ t.pend = s.pend ∧ t.snap = s.snap ∧
    t.agenda = s.agenda ∧ t.rdata = s.rdata ∧ t.draws = s.draws

/-! ### Errors -/

/-- Rule R281: a command that raises an error writes its code to ERRCODE, empties PEND, and changes
nothing else. -/
def Obligations.ErrorWritesOnlyErrcode : Prop :=
  ∀ s t : State, s.pend.isSome = true → s.engineTurn = .next t → t.errcode ≠ 0 →
    t = { s with errcode := t.errcode, pend := none }

/-- The state preconditions, each with its code, in the order KSV before IVV (60_exceptions.md
section 1). -/
def Obligations.StatePreconditionErrors : Prop :=
  ∀ s : State,
    (s.ksv = false → ∀ i ∈ ([.bcEnc, .ofbBlk, .ofbDecFin] : List Instr) ++
        (List.range 16).map Instr.ofbEncFin, exec i s = .next { s with errcode := 0x03 }) ∧
    (s.ksv = true → s.ivv = false → ∀ i ∈ ([.ofbBlk, .ofbDecFin] : List Instr) ++
        (List.range 16).map Instr.ofbEncFin, exec i s = .next { s with errcode := 0x04 }) ∧
    (s.hact = false → ∀ i ∈ ([.hBlk] : List Instr) ++ (List.range 64).map Instr.hFin,
        exec i s = .next { s with errcode := 0x05 }) ∧
    (s.sqb = false → ∀ i ∈ ([.psFinish] : List Instr) ++ (List.range 65).map Instr.psFeed,
        exec i s = .next { s with errcode := 0x06 }) ∧
    (s.sqv = false → ∀ (row col : Nat) (c : Byte),
        ∀ i ∈ ([.psLook row col, .psRlook c] : List Instr) ++ (List.range 65).map Instr.bfEnc ++
          (List.range 65).map Instr.bfDec, exec i s = .next { s with errcode := 0x07 })

/-- The data checks of a valid square: E_RANGE for a coordinate 5 or more, E_CHAR for a byte that is no
letter of the square (60_exceptions.md section 1, 44_polybius.md section 2, 45_bifid.md section 2). -/
def Obligations.SquareDataErrors : Prop :=
  ∀ s : State, s.sqv = true →
    (∀ row col : Nat, 5 ≤ row ∨ 5 ≤ col →
      exec (.psLook row col) s = .next { s with errcode := 0x08 }) ∧
    (∀ c : Byte, c ∉ s.sq.toList → exec (.psRlook c) s = .next { s with errcode := 0x09 }) ∧
    (∀ k : Nat, k ≤ 64 → (∃ c ∈ s.snap.toList.take k, c ∉ s.sq.toList) →
      exec (.bfEnc k) s = .next { s with errcode := 0x09 } ∧
      exec (.bfDec k) s = .next { s with errcode := 0x09 })

/-! ### Control commands -/

/-- NOP writes no internal state, in any state (40_control.md section 1). -/
def Obligations.NopWritesOnlyErrcode : Prop :=
  ∀ s : State, exec .nop s = .next { s with errcode := 0x00 }

/-- After ZEROIZE every state value equals its reset value, except CMD, OVR and SNAP (40_control.md
section 1), and the model's own fields and PEND, which the completion step empties. -/
def Obligations.ZeroizeClearsAllButCmdOvrSnap : Prop :=
  ∀ s : State, exec .zeroize s =
    .next { State.reset with
      cmd := s.cmd, ovr := s.ovr, snap := s.snap, pend := s.pend,
      agenda := s.agenda, rdata := s.rdata, draws := s.draws }

/-! ### block_cipher_core -/

/-- BC_KEY, in any state: S is the expansion of SNAP[0..16), KSV is set, the stream is ended
(41_block_cipher.md sections 1 and 2). -/
def Obligations.BcKeyExpandsTheKey : Prop :=
  ∀ s : State, ∃ S, IsKeyExpansion (s.snap.toList.take 16) S ∧
    exec .bcKey s = .next
      { s with
        sched := S, ksv := true, civ := Vector.replicate 16 0, ivv := false, errcode := 0x00 }

/-- BC_ENC with a valid schedule: DOUT is E(S, SNAP[0..16)) and zeros, OUTLEN is 16, nothing else
changes (41_block_cipher.md sections 1 and 2). -/
def Obligations.BcEncTransformsOneBlock : Prop :=
  ∀ s : State, s.ksv = true →
    ∃ X D, IsBlockTransform s.sched (s.snap.toList.take 16) X ∧ X.length = 16 ∧ IsOutput X D ∧
      exec .bcEnc s = .next { s with dout := D, outlen := 16, errcode := 0x00 }

/-! ### stream_cipher_mode -/

/-- OFB_IV, in any state: CIV is SNAP[0..16) and IVV is set (42_stream_mode.md section 2). -/
def Obligations.OfbIvLoadsTheChain : Prop :=
  ∀ s : State, ∃ C : Vector Byte 16, C.toList = s.snap.toList.take 16 ∧
    exec .ofbIv s = .next { s with civ := C, ivv := true, errcode := 0x00 }

/-- OFB_BLK with a key and an open stream: K = E(S, CIV), DOUT is SNAP[0..16) xor K and zeros, CIV is K
(42_stream_mode.md sections 1 and 2). -/
def Obligations.OfbBlkAdvancesTheChain : Prop :=
  ∀ s : State, s.ksv = true → s.ivv = true →
    ∃ (C : Vector Byte 16) (D : Vector Byte 64),
      IsBlockTransform s.sched s.civ.toList C.toList ∧
      IsOutput (List.zipWith (· ^^^ ·) (s.snap.toList.take 16) C.toList) D ∧
      exec .ofbBlk s = .next { s with dout := D, outlen := 16, civ := C, errcode := 0x00 }

/-- OFB_ENC_FIN with a key and an open stream, for each of its lengths: the n bytes are padded with 16 − n
bytes of that value, encrypted, and the stream ends (42_stream_mode.md sections 1 and 2). -/
def Obligations.OfbEncFinPadsAndEndsTheStream : Prop :=
  ∀ (s : State) (n : Nat), n ≤ 15 → s.ksv = true → s.ivv = true →
    ∃ (K : List Byte) (D : Vector Byte 64),
      IsBlockTransform s.sched s.civ.toList K ∧
      IsOutput (List.zipWith (· ^^^ ·)
        (s.snap.toList.take n ++ List.replicate (16 - n) (BitVec.ofNat 8 (16 - n))) K) D ∧
      exec (.ofbEncFin n) s = .next
        { s with
          dout := D, outlen := 16, civ := Vector.replicate 16 0, ivv := false, errcode := 0x00 }

/-- OFB_DEC_FIN with a key and an open stream: where the last p bytes of X = SNAP[0..16) xor K are all p
for a p in 1..16, the first 16 − p bytes of X go to DOUT and the stream ends; where there is no such p,
E_PAD and nothing else (42_stream_mode.md sections 1 and 2). -/
def Obligations.OfbDecFinUnpadsOrRaisesPad : Prop :=
  ∀ s : State, s.ksv = true → s.ivv = true →
    ∃ K X : List Byte, IsBlockTransform s.sched s.civ.toList K ∧
      X = List.zipWith (· ^^^ ·) (s.snap.toList.take 16) K ∧
      (∀ p, 1 ≤ p → p ≤ 16 → X.drop (16 - p) = List.replicate p (BitVec.ofNat 8 p) →
        ∃ D : Vector Byte 64, IsOutput (X.take (16 - p)) D ∧
          exec .ofbDecFin s = .next
            { s with
              dout := D, outlen := BitVec.ofNat 7 (16 - p), civ := Vector.replicate 16 0,
              ivv := false, errcode := 0x00 }) ∧
      ((¬ ∃ p, 1 ≤ p ∧ p ≤ 16 ∧ X.drop (16 - p) = List.replicate p (BitVec.ofNat 8 p)) →
        exec .ofbDecFin s = .next { s with errcode := 0x0A })

/-- The procedure of 40_control.md on a plaintext of any length gives the source's ciphertext, for a
loaded key and any 16-byte IV (42_stream_mode.md section 3, "Encryption equivalence"). -/
def Obligations.OfbEncryptEqualsSource : Prop :=
  ∀ (s : State) (iv plain : List Byte), s.pend = none → s.ksv = true → iv.length = 16 →
    (s.ofbEncrypt iv plain).map Prod.fst = some (sourceEncrypt s.sched iv plain)

/-- The decrypting procedure of 40_control.md succeeds and fails exactly as the source's decrypt, on a
ciphertext of any length (42_stream_mode.md section 3, "Decryption equivalence"). -/
def Obligations.OfbDecryptEqualsSource : Prop :=
  ∀ (s : State) (iv cipher : List Byte), s.pend = none → s.ksv = true → iv.length = 16 →
    (s.ofbDecrypt iv cipher).map Prod.fst = sourceDecrypt s.sched iv cipher

/-- Decrypting an encrypted message with the same key and IV gives it back, for every message, and the
ciphertext has 16·(floor(n/16) + 1) bytes (42_stream_mode.md section 3, "Length law", "Round trip"). -/
def Obligations.OfbRoundTripReturnsPlaintext : Prop :=
  ∀ (s : State) (iv plain : List Byte), s.pend = none → s.ksv = true → iv.length = 16 →
    ∃ cipher t, s.ofbEncrypt iv plain = some (cipher, t) ∧
      cipher.length = 16 * (plain.length / 16 + 1) ∧
      ∃ u, t.ofbDecrypt iv cipher = some (plain, u)

/-! ### hash_160 -/

/-- H_INIT, in any state: the initial state, MLEN 0, HACT set (43_hash160.md sections 1 and 2). -/
def Obligations.HInitStartsTheDigest : Prop :=
  ∀ s : State, exec .hInit s = .next
    { s with
      h := #v[0x67452301, 0xEFCDAB89, 0x98BADCFE, 0x10325476, 0xC3D2E1F0]
      mlen := 0, hact := true, errcode := 0x00 }

/-- H_BLK with a digest in progress: H is Compress(H, SNAP), MLEN grows by 512 modulo 2^64
(43_hash160.md sections 1 and 2). -/
def Obligations.HBlkAbsorbsOneBlock : Prop :=
  ∀ s : State, s.hact = true →
    ∃ G, IsCompression s.h s.snap.toList G ∧
      exec .hBlk s = .next { s with h := G, mlen := s.mlen + 512, errcode := 0x00 }

/-- H_FIN with a digest in progress, for each of its lengths: up to 55 bytes are padded into one block and
56 to 63 into two, the digest goes to DOUT big-endian, and the digest ends (43_hash160.md sections 1
and 2). -/
def Obligations.HFinOutputsTheDigest : Prop :=
  ∀ (s : State) (n : Nat), n ≤ 63 → s.hact = true →
    let r := s.snap.toList.take n
    let suffix := beBytes64 (s.mlen + BitVec.ofNat 64 (8 * n))
    ∃ (F G : Vector Word 5) (D : Vector Byte 64),
      (if n ≤ 55 then
        IsCompression s.h (r ++ 0x80 :: List.replicate (55 - n) 0 ++ suffix) G
      else
        IsCompression s.h (r ++ 0x80 :: List.replicate (63 - n) 0) F ∧
          IsCompression F (List.replicate 56 0 ++ suffix) G) ∧
      IsOutput (beBytes G[0] ++ beBytes G[1] ++ beBytes G[2] ++ beBytes G[3] ++ beBytes G[4]) D ∧
      exec (.hFin n) s = .next
        { s with
          dout := D, outlen := 20, h := Vector.replicate 5 0, mlen := 0, hact := false,
          errcode := 0x00 }

/-- The procedure of 40_control.md on a message of any length leaves the source's digest in DOUT
(43_hash160.md section 3, "Equivalence"). -/
def Obligations.HashProcedureEqualsSource : Prop :=
  ∀ (s : State) (msg : List Byte), s.pend = none →
    (s.hashMessage msg).map Prod.fst = some (sourceHash msg)

/-! ### fractionating_substitution_cipher: the square -/

/-- PS_START, in any state: an empty build, and a valid square is destroyed (44_polybius.md section 2). -/
def Obligations.PsStartEmptiesTheSquare : Prop :=
  ∀ s : State, exec .psStart s = .next
    { s with
      sq := Vector.replicate 25 0, sqn := 0, seen := Vector.replicate 25 false,
      sqb := true, sqv := false, errcode := 0x00 }

/-- PS_FEED during a build, for each of its lengths: the filled cells become the first occurrences of the
letters already placed and the normalised key bytes, in order; the cells past them are 0 and SEEN is
the set of the letters placed (44_polybius.md sections 1 and 2). -/
def Obligations.PsFeedAddsNewLetters : Prop :=
  ∀ (s : State) (n : Nat), s.EngineInv → s.sqb = true → n ≤ 64 →
    let letters := dedupFirst (s.filled ++ (s.snap.toList.take n).filterMap keyLetter)
    ∃ (Q : Vector Byte 25) (M : Vector Bool 25),
      letters.length ≤ 25 ∧ Q.toList = letters ++ List.replicate (25 - letters.length) 0 ∧
      (∀ i (h : i < 25), M[i] = decide (Config.alpha25.getD i 0 ∈ letters)) ∧
      exec (.psFeed n) s = .next
        { s with sq := Q, sqn := letters.length, seen := M, errcode := 0x00 }

/-- PS_FINISH during a build: the letters not placed follow in ALPHA25 order, and the square is valid
(44_polybius.md section 2). -/
def Obligations.PsFinishCompletesTheSquare : Prop :=
  ∀ s : State, s.EngineInv → s.sqb = true →
    ∃ Q : Vector Byte 25,
      Q.toList = s.filled ++ Config.alpha25.filter (fun c => c ∉ s.filled) ∧
      exec .psFinish s = .next
        { s with
          sq := Q, sqn := 25, seen := Vector.replicate 25 true, sqb := false, sqv := true,
          errcode := 0x00 }

/-- PS_LOOK with a valid square: RESULT is the letter at (row, col), zero-extended (44_polybius.md
section 2). -/
def Obligations.PsLookReadsTheCell : Prop :=
  ∀ (s : State) (row col : Nat) (hr : row < 5) (hc : col < 5), s.sqv = true →
    exec (.psLook row col) s = .next
      { s with result := (s.sq[5 * row + col]).setWidth 32, errcode := 0x00 }

/-- PS_RLOOK with a valid square inverts PS_LOOK: the letter at (row, col) gives `row << 4 | col`
(44_polybius.md sections 2 and 3). -/
def Obligations.PsRlookInvertsTheSquare : Prop :=
  ∀ (s : State) (row col : Nat) (hr : row < 5) (hc : col < 5), s.EngineInv → s.sqv = true →
    exec (.psRlook s.sq[5 * row + col]) s = .next
      { s with result := BitVec.ofNat 32 (16 * row + col), errcode := 0x00 }

/-- A key fed in any pieces of at most 64 bytes builds Square(k) of the whole key (44_polybius.md
section 3), and so does the procedure of 40_control.md, which cuts a key of any length itself. -/
def Obligations.SquareProcedureEqualsSource : Prop :=
  (∀ (s : State) (pieces : List (List Byte)), s.pend = none → (∀ p ∈ pieces, p.length ≤ 64) →
    ∃ t, s.buildSquareFrom pieces = some t ∧ t.sq.toList = sourceSquare pieces.flatten ∧
      t.sqv = true ∧ t.sqb = false ∧ t.sqn = 25) ∧
  (∀ (s : State) (key : List Byte), s.pend = none →
    ∃ t, s.buildSquare key = some t ∧ t.sq.toList = sourceSquare key ∧
      t.sqv = true ∧ t.sqb = false ∧ t.sqn = 25)

/-! ### fractionating_substitution_cipher: filter and chunks -/

/-- BF_FILTER, in any state, for each of its lengths and flags: DOUT is the text after upper-casing and
folding, less everything that is no letter, and zeros; OUTLEN is its length (45_bifid.md section 1). -/
def Obligations.BfFilterKeepsTheLetters : Prop :=
  ∀ (s : State) (n : Nat) (upcase foldj : Bool), n ≤ 64 →
    let mapped := (s.snap.toList.take n).map fun c =>
      let c := if upcase ∧ 0x61 ≤ c.toNat ∧ c.toNat ≤ 0x7A then BitVec.ofNat 8 (c.toNat - 0x20) else c
      if foldj ∧ c = 0x4A then 0x49 else c
    let kept := mapped.filter fun c => 0x41 ≤ c.toNat ∧ c.toNat ≤ 0x5A
    ∃ D : Vector Byte 64, IsOutput kept D ∧
      exec (.bfFilter n upcase foldj) s = .next
        { s with dout := D, outlen := BitVec.ofNat 7 kept.length, errcode := 0x00 }

/-- BF_ENC of k letters of a valid square: letter i of the output stands at the pair (2i, 2i+1) of
rows ++ cols (45_bifid.md section 2). -/
def Obligations.BfEncReadsPairsOfRowsAndCols : Prop :=
  ∀ (s : State) (k : Nat), k ≤ 64 → s.sqv = true → (∀ c ∈ s.snap.toList.take k, c ∈ s.sq.toList) →
    let x := s.snap.toList.take k
    let seq := x.map (fun c => s.sq.toList.idxOf c / 5) ++ x.map (fun c => s.sq.toList.idxOf c % 5)
    ∃ (out : List Byte) (D : Vector Byte 64), out.length = k ∧ IsOutput out D ∧
      (∀ i, i < k → out.getD i 0 = s.sq.toList.getD (5 * seq.getD (2 * i) 0 + seq.getD (2 * i + 1) 0) 0) ∧
      exec (.bfEnc k) s = .next
        { s with dout := D, outlen := BitVec.ofNat 7 k, errcode := 0x00 }

/-- BF_DEC of k letters of a valid square: the coordinates, flattened, are split in half and re-paired
(45_bifid.md section 2). -/
def Obligations.BfDecRepairsTheHalves : Prop :=
  ∀ (s : State) (k : Nat), k ≤ 64 → s.sqv = true → (∀ c ∈ s.snap.toList.take k, c ∈ s.sq.toList) →
    let y := s.snap.toList.take k
    let flat := (y.map fun c => [s.sq.toList.idxOf c / 5, s.sq.toList.idxOf c % 5]).flatten
    ∃ (out : List Byte) (D : Vector Byte 64), out.length = k ∧ IsOutput out D ∧
      (∀ i, i < k → out.getD i 0 = s.sq.toList.getD (5 * flat.getD i 0 + flat.getD (k + i) 0) 0) ∧
      exec (.bfDec k) s = .next
        { s with dout := D, outlen := BitVec.ofNat 7 k, errcode := 0x00 }

/-- BF_DEC of BF_ENC's output gives the chunk back, for a valid square and any chunk of its letters
(45_bifid.md section 3, "Chunk inverse"). -/
def Obligations.BfDecInvertsBfEnc : Prop :=
  ∀ (s : State) (k : Nat), s.EngineInv → s.sqv = true → k ≤ 64 →
    (∀ c ∈ s.snap.toList.take k, c ∈ Config.alpha25) →
    ∃ t u, exec (.bfEnc k) s = .next t ∧ exec (.bfDec k) { t with snap := t.dout } = .next u ∧
      u.errcode = 0x00 ∧ u.readout = s.snap.toList.take k

/-- The text procedures of 40_control.md with one period in 1..64 return the filtered text, and a text of
square letters whole (45_bifid.md section 3, "Text round trip"). -/
def Obligations.BifidTextRoundTrip : Prop :=
  ∀ (s : State) (period : Nat) (text : List Byte), s.EngineInv → s.pend = none → s.sqv = true →
    1 ≤ period → period ≤ 64 →
    ∃ cipher plain t u, s.bifidEncryptText period text = some (cipher, t) ∧
      t.bifidDecryptText period cipher = some (plain, u) ∧
      plain = filterText true true text ∧ ((∀ c ∈ text, c ∈ Config.alpha25) → plain = text)

/-! ### The window -/

/-- An aligned access at address a of the host reaches the block in BASE..BASE+0xFF, at the offset a − BASE;
an access elsewhere, of any width, read or write, cached or not, changes nothing of the block
(20_memory.md sections 1 and 4). The last clause says the same of every access outside the window,
without BASE. That an access belongs to the window by its first address alone, so that a wide one which
begins below BASE and runs into the window does not reach the block, is the model's inference
(notes/assumptions/20.md). -/
def Obligations.WindowIsBaseToBasePlus255 : Prop :=
  (∀ (s : State) (a : Nat) (data : Option Word),
    Config.base ≤ a ∧ a ≤ Config.base + 0xFF → (a - Config.base) % 4 = 0 →
      s.access (accessAt a data) = .next
        (match data with
          | none => s.serveRead (a - Config.base)
          | some v => s.serveWrite (a - Config.base) v)) ∧
  (∀ (s : State) (a size : Nat) (data : Option Word) (cached : Bool),
    ¬ (Config.base ≤ a ∧ a ≤ Config.base + 0xFF) →
      ∃ t, s.access { accessAt a data with size := size, cached := cached } = .next t ∧
        t.block = s.block) ∧
  (∀ (s : State) (a : Access), a.off < 0 ∨ 0xFF < a.off →
    ∃ t, s.access a = .next t ∧ t.block = s.block)

/-- Rule R66: a CMD write is accepted whole when PEND is empty and dropped when it is not; while PEND is
not empty, BUSY reads 1 and no access changes PEND, so that BUSY reads 1 until completion. -/
def Obligations.CmdWriteAcceptedOrDropped : Prop :=
  ∀ (s : State) (v : Word),
    (s.pend = none →
      ∃ t, s.access (accessAt Config.base (some v)) = .next t ∧
        t.block = { s.block with
          cmd := v, pend := some v, snap := s.din,
          ovr := if v.extractLsb' 0 8 = 0x00 then false else s.ovr }) ∧
    (s.pend.isSome = true →
      (∃ t, s.access (accessAt Config.base (some v)) = .next t ∧
        t.block = { s.block with ovr := true }) ∧
      (∃ u w, s.access (accessAt (Config.base + 0x04) none) = .next u ∧ u.rdata = some w ∧
        w.getLsbD 0 = true) ∧
      ∀ (a : Access) (u : State), s.access a = .next u → u.pend = s.pend)

/-- Rule R36: the one event that sets OVR is a CMD write while BUSY = 1, and it changes nothing else; the
events that clear it are reset and an accepted CMD write with OP 0x00; no other event changes it, a
completed ZEROIZE among them. -/
def Obligations.OvrSetByDropClearedByNopOrReset : Prop :=
  (∀ (s : State) (v : Word), s.pend.isSome = true →
    ∃ t, s.event (evWrite 0x00 v) = .next t ∧ t.block = { s.block with ovr := true }) ∧
  (∀ (s : State) (v : Word), s.pend = none → v.extractLsb' 0 8 = 0x00 →
    ∃ t, s.event (evWrite 0x00 v) = .next t ∧ t.ovr = false) ∧
  (∀ s : State, ∃ t, s.event .reset = .next t ∧ t.ovr = false) ∧
  (∀ (s t : State) (e : Event), s.event e = .next t → t.ovr ≠ s.ovr →
    e = .reset ∨ ∃ v, e = evWrite 0x00 v ∧
      (s.pend.isSome = true ∨ (s.pend = none ∧ v.extractLsb' 0 8 = 0x00)))

/-- Rule R27: word k of DIN is its four bytes, the low byte first; a host write sets them at once, even
while BUSY = 1, and changes nothing else, SNAP among it; a read returns the word; no command writes DIN
but ZEROIZE, which clears it; and no command's effect depends on DIN, so a write does not reach the
command in flight. -/
def Obligations.DinIsHostWrittenBytes : Prop :=
  (∀ (s : State) (k : Nat) (v : Word), k < 16 →
    ∃ t, s.event (evWrite (0x40 + 4 * k) v) = .next t ∧ t.block = { s.block with din := t.din } ∧
      (∀ m, m < 4 → t.din.toList.getD (4 * k + m) 0 = v.extractLsb' (8 * m) 8) ∧
      (∀ j (h : j < 64), j < 4 * k ∨ 4 * k + 4 ≤ j → t.din[j] = s.din[j])) ∧
  (∀ (s : State) (k : Nat) (hk : k < 16),
    ∃ t, s.event (evRead (0x40 + 4 * k)) = .next t ∧ t.block = s.block ∧
      t.rdata = some (s.din[4 * k + 3] ++ s.din[4 * k + 2] ++ s.din[4 * k + 1] ++ s.din[4 * k])) ∧
  (∀ (i : Instr) (s t : State), exec i s = .next t →
    t.din = (if i = .zeroize then Vector.replicate 64 0 else s.din) ∧
    ∀ d, exec i { s with din := d } = .next (if i = .zeroize then t else { t with din := d }))

/-- Rule R30: reserved offsets read 0 at any time, and writes to them and to STATUS, OUTLEN, RESULT and
DOUT are ignored without error. -/
def Obligations.ReservedAndReadOnlyOffsets : Prop :=
  (∀ (s : State) (off : Nat), off % 4 = 0 → (0x10 ≤ off ∧ off ≤ 0x3C) ∨ (0xC0 ≤ off ∧ off ≤ 0xFC) →
    (∃ t, s.event (evRead off) = .next t ∧ t.block = s.block ∧ t.rdata = some 0) ∧
    ∀ v, ∃ t, s.event (evWrite off v) = .next t ∧ t.block = s.block) ∧
  (∀ (s : State) (off : Nat) (v : Word), off % 4 = 0 →
    off = 0x04 ∨ off = 0x08 ∨ off = 0x0C ∨ (0x80 ≤ off ∧ off ≤ 0xBC) →
    ∃ t, s.event (evWrite off v) = .next t ∧ t.block = s.block)

/-- Rule R68: of the accesses to the window, an aligned 32-bit one is served and every other one is a bus
error, from which no next state and no data come. -/
def Obligations.OnlyAlignedWordsAreServed : Prop :=
  ∀ (s : State) (off size : Nat) (data : Option Word), off ≤ 0xFF →
    let a : Access := { off := off, size := size, data := data, cached := false }
    (size = 4 ∧ off % 4 = 0 → ∃ t, s.event (.access a) = .next t) ∧
    (¬ (size = 4 ∧ off % 4 = 0) → s.event (.access a) = .fault .busError)

/-- While BUSY = 0 every register reads exactly: CMD, STATUS bit by bit, OUTLEN, RESULT and DOUT, with no
side effect on the block (10_state.md section 2, 20_memory.md section 4). -/
def Obligations.IdleReadsAreExact : Prop :=
  ∀ (s : State), s.pend = none →
    (∃ t, s.event (evRead 0x00) = .next t ∧ t.block = s.block ∧ t.rdata = some s.cmd) ∧
    (∃ t w, s.event (evRead 0x04) = .next t ∧ t.block = s.block ∧ t.rdata = some w ∧
      w.getLsbD 0 = false ∧ w.getLsbD 1 = s.ovr ∧ w.getLsbD 2 = s.ksv ∧ w.getLsbD 3 = s.ivv ∧
      w.getLsbD 4 = s.hact ∧ w.getLsbD 5 = s.sqb ∧ w.getLsbD 6 = s.sqv ∧ w.getLsbD 7 = false ∧
      w.extractLsb' 8 8 = s.errcode ∧ w.extractLsb' 16 16 = 0) ∧
    (∃ t, s.event (evRead 0x08) = .next t ∧ t.block = s.block ∧
      t.rdata = some (BitVec.ofNat 32 s.outlen.toNat)) ∧
    (∃ t, s.event (evRead 0x0C) = .next t ∧ t.block = s.block ∧ t.rdata = some s.result) ∧
    ∀ (k : Nat) (hk : k < 16),
      ∃ t, s.event (evRead (0x80 + 4 * k)) = .next t ∧ t.block = s.block ∧
        t.rdata = some (s.dout[4 * k + 3] ++ s.dout[4 * k + 2] ++ s.dout[4 * k + 1] ++ s.dout[4 * k])

/-- While BUSY = 1 an aligned read at any offset is served, returns a word and changes nothing of the block,
CMD and DIN among it; a STATUS read has BUSY = 1 and the true OVR, and CMD reads exactly; whatever the
free draws are (10_state.md sections 2 and 6, 20_memory.md sections 4 and 7). That the reserved bits of STATUS read 0 then too is the
model's inference (notes/assumptions/19.md). -/
def Obligations.BusyReadsKeepBusyAndOvr : Prop :=
  ∀ s : State, s.pend.isSome = true →
    (∀ off : Nat, off ≤ 0xFF → off % 4 = 0 →
      ∃ t w, s.event (evRead off) = .next t ∧ t.block = s.block ∧ t.rdata = some w) ∧
    (∃ t, s.event (evRead 0x00) = .next t ∧ t.block = s.block ∧ t.rdata = some s.cmd) ∧
    ∃ t w, s.event (evRead 0x04) = .next t ∧ t.block = s.block ∧ t.rdata = some w ∧
      w.getLsbD 0 = true ∧ w.getLsbD 1 = s.ovr ∧ w.getLsbD 7 = false ∧ w.extractLsb' 16 16 = 0

/-- No host access writes S, CIV, H, MLEN, SQ, SQN or SEEN (nor any output or flag but OVR), PEND and SNAP
only an accepted command; and what a host access reads does not depend on any of them, but for whether
PEND is empty (10_state.md section 5). For the reads that 10_state.md section 6 leaves unspecified while
BUSY = 1, two of which the spec lets differ, the second clause rests on the model's choice that a draw is
a function of the draw counter alone, which is the same in the two states (notes/assumptions/3.md). -/
def Obligations.HostHasNoPathToInternalState : Prop :=
  (∀ (s t : State) (a : Access), s.access a = .next t →
    t.sched = s.sched ∧ t.civ = s.civ ∧ t.h = s.h ∧ t.mlen = s.mlen ∧ t.sq = s.sq ∧
    t.sqn = s.sqn ∧ t.seen = s.seen ∧ t.dout = s.dout ∧ t.outlen = s.outlen ∧
    t.result = s.result ∧ t.errcode = s.errcode ∧ t.ksv = s.ksv ∧ t.ivv = s.ivv ∧
    t.hact = s.hact ∧ t.sqb = s.sqb ∧ t.sqv = s.sqv ∧
    (a.data = none ∨ a.off ≠ 0x00 ∨ s.pend.isSome = true → t.pend = s.pend ∧ t.snap = s.snap)) ∧
  (∀ (s t s' t' : State) (a : Access), s.access a = .next t → s'.access a = .next t' →
    s.pend.isSome = s'.pend.isSome →
    s = { s' with
      sched := s.sched, civ := s.civ, h := s.h, mlen := s.mlen, sq := s.sq, sqn := s.sqn,
      seen := s.seen, snap := s.snap, pend := s.pend } →
    t.rdata = t'.rdata)

/-! ### Reset and the whole machine -/

/-- Rule R45: the value of every piece of state after hardware reset. -/
def Obligations.ResetValues : Prop :=
  State.reset.cmd = 0x00000000 ∧ State.reset.status = 0x00000000 ∧ State.reset.busy = false ∧
  State.reset.ovr = false ∧ State.reset.ksv = false ∧ State.reset.ivv = false ∧
  State.reset.hact = false ∧ State.reset.sqb = false ∧ State.reset.sqv = false ∧
  State.reset.errcode = 0x00 ∧ State.reset.outlen = 0 ∧ State.reset.result = 0x00000000 ∧
  (∀ i (h : i < 64), State.reset.din[i] = 0x00 ∧ State.reset.dout[i] = 0x00 ∧
    State.reset.snap[i] = 0x00) ∧
  (∀ i (h : i < 44), State.reset.sched[i] = 0x00000000) ∧
  (∀ i (h : i < 16), State.reset.civ[i] = 0x00) ∧
  (∀ i (h : i < 5), State.reset.h[i] = 0x00000000) ∧ State.reset.mlen = 0 ∧
  (∀ i (h : i < 25), State.reset.sq[i] = 0x00 ∧ State.reset.seen[i] = false) ∧
  State.reset.sqn = 0 ∧ State.reset.pend = none

/-- Rule R310: reset, in any state, puts every piece of state to its reset value, and the block accepts
the first CMD write after it. -/
def Obligations.ResetRestoresAndAccepts : Prop :=
  ∀ s : State, ∃ t, s.event .reset = .next t ∧ t.block = State.reset.block ∧
    ∀ v : Word, ∃ u, t.event (evWrite 0x00 v) = .next u ∧ u.pend = some v ∧ u.cmd = v

/-- The invariants of 10_state.md section 5 and of the window hold after reset. -/
def Obligations.InvariantsHoldAtReset : Prop :=
  State.reset.EngineInv ∧ State.reset.WindowInv

/-- Every step keeps the six invariants of 10_state.md section 5, from every state that has them: host
accesses, resets, completed commands and errors. -/
def Obligations.StepKeepsEngineInvariants : Prop :=
  ∀ s t : State, s.EngineInv → step s = .next t → t.EngineInv

/-- Every step keeps OUTLEN at most 64 with DOUT zero past it, ERRCODE a code of the table, RESULT one
byte, and the command in flight the last accepted one (10_state.md section 2, 60_exceptions.md
section 1, 93_implementation_defined.md U8 and U9). -/
def Obligations.StepKeepsWindowInvariants : Prop :=
  ∀ s t : State, s.WindowInv → step s = .next t → t.WindowInv

/-- Who writes what: S and KSV only BC_KEY, CIV and IVV only BC_KEY and the OFB commands, the digest state
only the hash commands, the square only its three build commands, RESULT only the two lookups, DOUT and
OUTLEN only the output-producing commands, and ZEROIZE all of them (10_state.md sections 2 and 3,
30_encoding.md section 3, 70_reset_and_hazards.md section 2). -/
def Obligations.CommandsWriteOnlyTheirUnit : Prop :=
  ∀ (i : Instr) (s t : State), exec i s = .next t → i.opByte ≠ 0x01 →
    (i.opByte ≠ 0x10 → t.sched = s.sched ∧ t.ksv = s.ksv) ∧
    (i.opByte ∉ ([0x10, 0x20, 0x21, 0x22, 0x23] : List Byte) → t.civ = s.civ ∧ t.ivv = s.ivv) ∧
    (i.opByte ∉ ([0x30, 0x31, 0x32] : List Byte) → t.h = s.h ∧ t.mlen = s.mlen ∧ t.hact = s.hact) ∧
    (i.opByte ∉ ([0x40, 0x41, 0x42] : List Byte) →
      t.sq = s.sq ∧ t.sqn = s.sqn ∧ t.seen = s.seen ∧ t.sqb = s.sqb ∧ t.sqv = s.sqv) ∧
    (i.opByte ∉ ([0x43, 0x44] : List Byte) → t.result = s.result) ∧
    (i.opByte ∉ ([0x11, 0x21, 0x22, 0x23, 0x32, 0x50, 0x51, 0x52] : List Byte) →
      t.dout = s.dout ∧ t.outlen = s.outlen)
end

