-- ==== Sys2Proof/Laws/Bytes.lean ====
section
/-! SUPPORT. Bytes, words and buffers: what the conversions and the buffer writes do. -/

namespace Sys2Proof.Machine

/-! ### Buffers -/

theorem vecOfList_toList {α : Type} (n : Nat) (d : α) (l : List α) :
    (vecOfList n d l).toList = (l ++ List.replicate n d).take n := rfl

/-- A buffer holds a sequence that fits it, and the filler past it. -/
theorem vecOfList_toList_of_le {α : Type} {n : Nat} {d : α} {l : List α} (h : l.length ≤ n) :
    (vecOfList n d l).toList = l ++ List.replicate (n - l.length) d := by
  rw [vecOfList_toList, List.take_append, List.take_of_length_le h, List.take_replicate]
  simp

/-- A buffer of exactly its size holds the sequence itself. -/
theorem vecOfList_toList_of_eq {α : Type} {n : Nat} {d : α} {l : List α} (h : l.length = n) :
    (vecOfList n d l).toList = l := by
  rw [vecOfList_toList_of_le h.le, h]; simp

@[simp] theorem vecOfList_toList_self {α : Type} {n : Nat} (d : α) (v : Vector α n) :
    vecOfList n d v.toList = v := by
  apply Vector.toList_inj.mp; rw [vecOfList_toList_of_eq (by simp)]

/-- Entry i after writing the bytes of `l` from `at_` on: a byte of `l` inside the written range, the old
entry outside it. -/
theorem setBytes_getElem {n : Nat} (v : Vector Byte n) (at_ : Nat) (l : List Byte) (i : Nat)
    (h : i < n) :
    (setBytes v at_ l)[i] = if at_ ≤ i ∧ i < at_ + l.length then l.getD (i - at_) 0 else v[i] := by
  induction l generalizing v at_ with
  | nil => simp [setBytes]
  | cons b bs ih =>
    rw [setBytes, ih, List.length_cons]
    rcases Nat.lt_trichotomy i at_ with hlt | heq | hgt
    · rw [if_neg (by omega), if_neg (by omega), Vector.getElem_setIfInBounds, if_neg (by omega)]
    · subst heq
      rw [if_neg (by omega), if_pos (by omega), Vector.getElem_setIfInBounds, if_pos rfl]
      simp
    · by_cases hin : i < at_ + (bs.length + 1)
      · rw [if_pos (by omega), if_pos (by omega)]
        obtain ⟨k, rfl⟩ : ∃ k, i = at_ + 1 + k := ⟨i - (at_ + 1), by omega⟩
        simp [show at_ + 1 + k - at_ = k + 1 by omega]
      · rw [if_neg (by omega), if_neg (by omega), Vector.getElem_setIfInBounds, if_neg (by omega)]

/-! ### Words -/

@[simp] theorem leBytes_length (x : Word) : (leBytes x).length = 4 := rfl
@[simp] theorem beBytes_length (x : Word) : (beBytes x).length = 4 := rfl
@[simp] theorem beBytes64_length (x : BitVec 64) : (beBytes64 x).length = 8 := rfl

/-- le32 puts its first byte in bits 7:0 and its last in bits 31:24. -/
theorem le32_eq_append (b0 b1 b2 b3 : Byte) : le32 b0 b1 b2 b3 = b3 ++ b2 ++ b1 ++ b0 := by
  apply BitVec.eq_of_getLsbD_eq
  intro i hi
  simp only [le32, BitVec.getLsbD_or, BitVec.getLsbD_setWidth, BitVec.getLsbD_shiftLeft,
    BitVec.getLsbD_append]
  interval_cases i <;> simp

/-- be32 puts its first byte in bits 31:24 and its last in bits 7:0. -/
theorem be32_eq_append (b0 b1 b2 b3 : Byte) : be32 b0 b1 b2 b3 = b0 ++ b1 ++ b2 ++ b3 := by
  apply BitVec.eq_of_getLsbD_eq
  intro i hi
  simp only [be32, BitVec.getLsbD_or, BitVec.getLsbD_setWidth, BitVec.getLsbD_shiftLeft,
    BitVec.getLsbD_append]
  interval_cases i <;> simp

/-- The bytes of a word, put together again, are the word (rule R14). -/
theorem le32_extract (x : Word) :
    le32 (x.extractLsb' 0 8) (x.extractLsb' 8 8) (x.extractLsb' 16 8) (x.extractLsb' 24 8) = x := by
  rw [le32_eq_append]
  apply BitVec.eq_of_getLsbD_eq
  intro i hi
  simp only [BitVec.getLsbD_append, BitVec.getLsbD_extractLsb']
  interval_cases i <;> simp

/-- Byte m of the word of four bytes is the m-th of them. -/
theorem leBytes_le32 (b0 b1 b2 b3 : Byte) : leBytes (le32 b0 b1 b2 b3) = [b0, b1, b2, b3] := by
  rw [le32_eq_append]
  have h : ∀ {a b : Byte}, (∀ i, i < 8 → a.getLsbD i = b.getLsbD i) → a = b :=
    fun h => BitVec.eq_of_getLsbD_eq h
  simp only [leBytes, List.cons.injEq, and_true]
  refine ⟨h ?_, h ?_, h ?_, h ?_⟩ <;> intro i hi <;>
    simp only [BitVec.getLsbD_append, BitVec.getLsbD_extractLsb'] <;> interval_cases i <;> simp

@[simp] theorem xorBytes_length (x y : List Byte) :
    (xorBytes x y).length = min x.length y.length := by
  simp [xorBytes]

/-- Xor with the same sequence twice gives back the part that it covers. -/
theorem xorBytes_xorBytes (x y : List Byte) (h : x.length ≤ y.length) :
    xorBytes (xorBytes x y) y = x := by
  induction x generalizing y with
  | nil => simp [xorBytes]
  | cons b bs ih =>
    match y, h with
    | c :: cs, h =>
      have := ih cs (by simpa using h)
      simp_all [xorBytes]

/-! ### Operands -/

@[simp] theorem State.operand_length (s : State) (n : Nat) : (s.operand n).length = min n 64 := by
  simp [State.operand]

end Sys2Proof.Machine
end

