-- ==== Sys2Proof/Laws/State.lean ====
section
/-! SUPPORT. What each named update of the state makes of each field: one lemma per field per update, true
by rfl, so that no proof unfolds a record update. -/

namespace Sys2Proof.Machine

variable (s : State)

/-! ### `State.withErr` -/

@[simp] theorem State.withErr_cmd (e : ErrCode) : (s.withErr e).cmd = s.cmd := rfl
@[simp] theorem State.withErr_ovr (e : ErrCode) : (s.withErr e).ovr = s.ovr := rfl
@[simp] theorem State.withErr_ksv (e : ErrCode) : (s.withErr e).ksv = s.ksv := rfl
@[simp] theorem State.withErr_ivv (e : ErrCode) : (s.withErr e).ivv = s.ivv := rfl
@[simp] theorem State.withErr_hact (e : ErrCode) : (s.withErr e).hact = s.hact := rfl
@[simp] theorem State.withErr_sqb (e : ErrCode) : (s.withErr e).sqb = s.sqb := rfl
@[simp] theorem State.withErr_sqv (e : ErrCode) : (s.withErr e).sqv = s.sqv := rfl
@[simp] theorem State.withErr_errcode (e : ErrCode) : (s.withErr e).errcode = e.code := rfl
@[simp] theorem State.withErr_outlen (e : ErrCode) : (s.withErr e).outlen = s.outlen := rfl
@[simp] theorem State.withErr_result (e : ErrCode) : (s.withErr e).result = s.result := rfl
@[simp] theorem State.withErr_din (e : ErrCode) : (s.withErr e).din = s.din := rfl
@[simp] theorem State.withErr_dout (e : ErrCode) : (s.withErr e).dout = s.dout := rfl
@[simp] theorem State.withErr_sched (e : ErrCode) : (s.withErr e).sched = s.sched := rfl
@[simp] theorem State.withErr_civ (e : ErrCode) : (s.withErr e).civ = s.civ := rfl
@[simp] theorem State.withErr_h (e : ErrCode) : (s.withErr e).h = s.h := rfl
@[simp] theorem State.withErr_mlen (e : ErrCode) : (s.withErr e).mlen = s.mlen := rfl
@[simp] theorem State.withErr_sq (e : ErrCode) : (s.withErr e).sq = s.sq := rfl
@[simp] theorem State.withErr_sqn (e : ErrCode) : (s.withErr e).sqn = s.sqn := rfl
@[simp] theorem State.withErr_seen (e : ErrCode) : (s.withErr e).seen = s.seen := rfl
@[simp] theorem State.withErr_pend (e : ErrCode) : (s.withErr e).pend = s.pend := rfl
@[simp] theorem State.withErr_snap (e : ErrCode) : (s.withErr e).snap = s.snap := rfl
@[simp] theorem State.withErr_agenda (e : ErrCode) : (s.withErr e).agenda = s.agenda := rfl
@[simp] theorem State.withErr_rdata (e : ErrCode) : (s.withErr e).rdata = s.rdata := rfl
@[simp] theorem State.withErr_draws (e : ErrCode) : (s.withErr e).draws = s.draws := rfl

/-! ### `State.produce` -/

@[simp] theorem State.produce_cmd (out : List Byte) : (s.produce out).cmd = s.cmd := rfl
@[simp] theorem State.produce_ovr (out : List Byte) : (s.produce out).ovr = s.ovr := rfl
@[simp] theorem State.produce_ksv (out : List Byte) : (s.produce out).ksv = s.ksv := rfl
@[simp] theorem State.produce_ivv (out : List Byte) : (s.produce out).ivv = s.ivv := rfl
@[simp] theorem State.produce_hact (out : List Byte) : (s.produce out).hact = s.hact := rfl
@[simp] theorem State.produce_sqb (out : List Byte) : (s.produce out).sqb = s.sqb := rfl
@[simp] theorem State.produce_sqv (out : List Byte) : (s.produce out).sqv = s.sqv := rfl
@[simp] theorem State.produce_errcode (out : List Byte) : (s.produce out).errcode = s.errcode := rfl
@[simp] theorem State.produce_outlen (out : List Byte) : (s.produce out).outlen = BitVec.ofNat 7 out.length := rfl
@[simp] theorem State.produce_result (out : List Byte) : (s.produce out).result = s.result := rfl
@[simp] theorem State.produce_din (out : List Byte) : (s.produce out).din = s.din := rfl
@[simp] theorem State.produce_dout (out : List Byte) : (s.produce out).dout = vecOfList 64 0 out := rfl
@[simp] theorem State.produce_sched (out : List Byte) : (s.produce out).sched = s.sched := rfl
@[simp] theorem State.produce_civ (out : List Byte) : (s.produce out).civ = s.civ := rfl
@[simp] theorem State.produce_h (out : List Byte) : (s.produce out).h = s.h := rfl
@[simp] theorem State.produce_mlen (out : List Byte) : (s.produce out).mlen = s.mlen := rfl
@[simp] theorem State.produce_sq (out : List Byte) : (s.produce out).sq = s.sq := rfl
@[simp] theorem State.produce_sqn (out : List Byte) : (s.produce out).sqn = s.sqn := rfl
@[simp] theorem State.produce_seen (out : List Byte) : (s.produce out).seen = s.seen := rfl
@[simp] theorem State.produce_pend (out : List Byte) : (s.produce out).pend = s.pend := rfl
@[simp] theorem State.produce_snap (out : List Byte) : (s.produce out).snap = s.snap := rfl
@[simp] theorem State.produce_agenda (out : List Byte) : (s.produce out).agenda = s.agenda := rfl
@[simp] theorem State.produce_rdata (out : List Byte) : (s.produce out).rdata = s.rdata := rfl
@[simp] theorem State.produce_draws (out : List Byte) : (s.produce out).draws = s.draws := rfl

/-! ### `State.endStream` -/

@[simp] theorem State.endStream_cmd : (s.endStream).cmd = s.cmd := rfl
@[simp] theorem State.endStream_ovr : (s.endStream).ovr = s.ovr := rfl
@[simp] theorem State.endStream_ksv : (s.endStream).ksv = s.ksv := rfl
@[simp] theorem State.endStream_ivv : (s.endStream).ivv = false := rfl
@[simp] theorem State.endStream_hact : (s.endStream).hact = s.hact := rfl
@[simp] theorem State.endStream_sqb : (s.endStream).sqb = s.sqb := rfl
@[simp] theorem State.endStream_sqv : (s.endStream).sqv = s.sqv := rfl
@[simp] theorem State.endStream_errcode : (s.endStream).errcode = s.errcode := rfl
@[simp] theorem State.endStream_outlen : (s.endStream).outlen = s.outlen := rfl
@[simp] theorem State.endStream_result : (s.endStream).result = s.result := rfl
@[simp] theorem State.endStream_din : (s.endStream).din = s.din := rfl
@[simp] theorem State.endStream_dout : (s.endStream).dout = s.dout := rfl
@[simp] theorem State.endStream_sched : (s.endStream).sched = s.sched := rfl
@[simp] theorem State.endStream_civ : (s.endStream).civ = Vector.replicate 16 0 := rfl
@[simp] theorem State.endStream_h : (s.endStream).h = s.h := rfl
@[simp] theorem State.endStream_mlen : (s.endStream).mlen = s.mlen := rfl
@[simp] theorem State.endStream_sq : (s.endStream).sq = s.sq := rfl
@[simp] theorem State.endStream_sqn : (s.endStream).sqn = s.sqn := rfl
@[simp] theorem State.endStream_seen : (s.endStream).seen = s.seen := rfl
@[simp] theorem State.endStream_pend : (s.endStream).pend = s.pend := rfl
@[simp] theorem State.endStream_snap : (s.endStream).snap = s.snap := rfl
@[simp] theorem State.endStream_agenda : (s.endStream).agenda = s.agenda := rfl
@[simp] theorem State.endStream_rdata : (s.endStream).rdata = s.rdata := rfl
@[simp] theorem State.endStream_draws : (s.endStream).draws = s.draws := rfl

/-! ### `State.retire` -/

@[simp] theorem State.retire_cmd : (s.retire).cmd = s.cmd := rfl
@[simp] theorem State.retire_ovr : (s.retire).ovr = s.ovr := rfl
@[simp] theorem State.retire_ksv : (s.retire).ksv = s.ksv := rfl
@[simp] theorem State.retire_ivv : (s.retire).ivv = s.ivv := rfl
@[simp] theorem State.retire_hact : (s.retire).hact = s.hact := rfl
@[simp] theorem State.retire_sqb : (s.retire).sqb = s.sqb := rfl
@[simp] theorem State.retire_sqv : (s.retire).sqv = s.sqv := rfl
@[simp] theorem State.retire_errcode : (s.retire).errcode = s.errcode := rfl
@[simp] theorem State.retire_outlen : (s.retire).outlen = s.outlen := rfl
@[simp] theorem State.retire_result : (s.retire).result = s.result := rfl
@[simp] theorem State.retire_din : (s.retire).din = s.din := rfl
@[simp] theorem State.retire_dout : (s.retire).dout = s.dout := rfl
@[simp] theorem State.retire_sched : (s.retire).sched = s.sched := rfl
@[simp] theorem State.retire_civ : (s.retire).civ = s.civ := rfl
@[simp] theorem State.retire_h : (s.retire).h = s.h := rfl
@[simp] theorem State.retire_mlen : (s.retire).mlen = s.mlen := rfl
@[simp] theorem State.retire_sq : (s.retire).sq = s.sq := rfl
@[simp] theorem State.retire_sqn : (s.retire).sqn = s.sqn := rfl
@[simp] theorem State.retire_seen : (s.retire).seen = s.seen := rfl
@[simp] theorem State.retire_pend : (s.retire).pend = none := rfl
@[simp] theorem State.retire_snap : (s.retire).snap = s.snap := rfl
@[simp] theorem State.retire_agenda : (s.retire).agenda = s.agenda := rfl
@[simp] theorem State.retire_rdata : (s.retire).rdata = s.rdata := rfl
@[simp] theorem State.retire_draws : (s.retire).draws = s.draws := rfl

/-! ### `State.hwReset` -/

@[simp] theorem State.hwReset_cmd : (s.hwReset).cmd = 0 := rfl
@[simp] theorem State.hwReset_ovr : (s.hwReset).ovr = false := rfl
@[simp] theorem State.hwReset_ksv : (s.hwReset).ksv = false := rfl
@[simp] theorem State.hwReset_ivv : (s.hwReset).ivv = false := rfl
@[simp] theorem State.hwReset_hact : (s.hwReset).hact = false := rfl
@[simp] theorem State.hwReset_sqb : (s.hwReset).sqb = false := rfl
@[simp] theorem State.hwReset_sqv : (s.hwReset).sqv = false := rfl
@[simp] theorem State.hwReset_errcode : (s.hwReset).errcode = 0 := rfl
@[simp] theorem State.hwReset_outlen : (s.hwReset).outlen = 0 := rfl
@[simp] theorem State.hwReset_result : (s.hwReset).result = 0 := rfl
@[simp] theorem State.hwReset_din : (s.hwReset).din = Vector.replicate 64 0 := rfl
@[simp] theorem State.hwReset_dout : (s.hwReset).dout = Vector.replicate 64 0 := rfl
@[simp] theorem State.hwReset_sched : (s.hwReset).sched = Vector.replicate 44 0 := rfl
@[simp] theorem State.hwReset_civ : (s.hwReset).civ = Vector.replicate 16 0 := rfl
@[simp] theorem State.hwReset_h : (s.hwReset).h = Vector.replicate 5 0 := rfl
@[simp] theorem State.hwReset_mlen : (s.hwReset).mlen = 0 := rfl
@[simp] theorem State.hwReset_sq : (s.hwReset).sq = Vector.replicate 25 0 := rfl
@[simp] theorem State.hwReset_sqn : (s.hwReset).sqn = 0 := rfl
@[simp] theorem State.hwReset_seen : (s.hwReset).seen = Vector.replicate 25 false := rfl
@[simp] theorem State.hwReset_pend : (s.hwReset).pend = none := rfl
@[simp] theorem State.hwReset_snap : (s.hwReset).snap = Vector.replicate 64 0 := rfl
@[simp] theorem State.hwReset_agenda : (s.hwReset).agenda = s.agenda := rfl
@[simp] theorem State.hwReset_rdata : (s.hwReset).rdata = none := rfl
@[simp] theorem State.hwReset_draws : (s.hwReset).draws = s.draws := rfl

/-! ### `State.zeroize` -/

@[simp] theorem State.zeroize_cmd : (s.zeroize).cmd = s.cmd := rfl
@[simp] theorem State.zeroize_ovr : (s.zeroize).ovr = s.ovr := rfl
@[simp] theorem State.zeroize_ksv : (s.zeroize).ksv = false := rfl
@[simp] theorem State.zeroize_ivv : (s.zeroize).ivv = false := rfl
@[simp] theorem State.zeroize_hact : (s.zeroize).hact = false := rfl
@[simp] theorem State.zeroize_sqb : (s.zeroize).sqb = false := rfl
@[simp] theorem State.zeroize_sqv : (s.zeroize).sqv = false := rfl
@[simp] theorem State.zeroize_errcode : (s.zeroize).errcode = s.errcode := rfl
@[simp] theorem State.zeroize_outlen : (s.zeroize).outlen = 0 := rfl
@[simp] theorem State.zeroize_result : (s.zeroize).result = 0 := rfl
@[simp] theorem State.zeroize_din : (s.zeroize).din = Vector.replicate 64 0 := rfl
@[simp] theorem State.zeroize_dout : (s.zeroize).dout = Vector.replicate 64 0 := rfl
@[simp] theorem State.zeroize_sched : (s.zeroize).sched = Vector.replicate 44 0 := rfl
@[simp] theorem State.zeroize_civ : (s.zeroize).civ = Vector.replicate 16 0 := rfl
@[simp] theorem State.zeroize_h : (s.zeroize).h = Vector.replicate 5 0 := rfl
@[simp] theorem State.zeroize_mlen : (s.zeroize).mlen = 0 := rfl
@[simp] theorem State.zeroize_sq : (s.zeroize).sq = Vector.replicate 25 0 := rfl
@[simp] theorem State.zeroize_sqn : (s.zeroize).sqn = 0 := rfl
@[simp] theorem State.zeroize_seen : (s.zeroize).seen = Vector.replicate 25 false := rfl
@[simp] theorem State.zeroize_pend : (s.zeroize).pend = s.pend := rfl
@[simp] theorem State.zeroize_snap : (s.zeroize).snap = s.snap := rfl
@[simp] theorem State.zeroize_agenda : (s.zeroize).agenda = s.agenda := rfl
@[simp] theorem State.zeroize_rdata : (s.zeroize).rdata = s.rdata := rfl
@[simp] theorem State.zeroize_draws : (s.zeroize).draws = s.draws := rfl

/-! ### `State.setCiv` -/

@[simp] theorem State.setCiv_cmd (x : List Byte) : (s.setCiv x).cmd = s.cmd := rfl
@[simp] theorem State.setCiv_ovr (x : List Byte) : (s.setCiv x).ovr = s.ovr := rfl
@[simp] theorem State.setCiv_ksv (x : List Byte) : (s.setCiv x).ksv = s.ksv := rfl
@[simp] theorem State.setCiv_ivv (x : List Byte) : (s.setCiv x).ivv = s.ivv := rfl
@[simp] theorem State.setCiv_hact (x : List Byte) : (s.setCiv x).hact = s.hact := rfl
@[simp] theorem State.setCiv_sqb (x : List Byte) : (s.setCiv x).sqb = s.sqb := rfl
@[simp] theorem State.setCiv_sqv (x : List Byte) : (s.setCiv x).sqv = s.sqv := rfl
@[simp] theorem State.setCiv_errcode (x : List Byte) : (s.setCiv x).errcode = s.errcode := rfl
@[simp] theorem State.setCiv_outlen (x : List Byte) : (s.setCiv x).outlen = s.outlen := rfl
@[simp] theorem State.setCiv_result (x : List Byte) : (s.setCiv x).result = s.result := rfl
@[simp] theorem State.setCiv_din (x : List Byte) : (s.setCiv x).din = s.din := rfl
@[simp] theorem State.setCiv_dout (x : List Byte) : (s.setCiv x).dout = s.dout := rfl
@[simp] theorem State.setCiv_sched (x : List Byte) : (s.setCiv x).sched = s.sched := rfl
@[simp] theorem State.setCiv_civ (x : List Byte) : (s.setCiv x).civ = vecOfList 16 0 x := rfl
@[simp] theorem State.setCiv_h (x : List Byte) : (s.setCiv x).h = s.h := rfl
@[simp] theorem State.setCiv_mlen (x : List Byte) : (s.setCiv x).mlen = s.mlen := rfl
@[simp] theorem State.setCiv_sq (x : List Byte) : (s.setCiv x).sq = s.sq := rfl
@[simp] theorem State.setCiv_sqn (x : List Byte) : (s.setCiv x).sqn = s.sqn := rfl
@[simp] theorem State.setCiv_seen (x : List Byte) : (s.setCiv x).seen = s.seen := rfl
@[simp] theorem State.setCiv_pend (x : List Byte) : (s.setCiv x).pend = s.pend := rfl
@[simp] theorem State.setCiv_snap (x : List Byte) : (s.setCiv x).snap = s.snap := rfl
@[simp] theorem State.setCiv_agenda (x : List Byte) : (s.setCiv x).agenda = s.agenda := rfl
@[simp] theorem State.setCiv_rdata (x : List Byte) : (s.setCiv x).rdata = s.rdata := rfl
@[simp] theorem State.setCiv_draws (x : List Byte) : (s.setCiv x).draws = s.draws := rfl

/-! ### `State.setSquare` -/

@[simp] theorem State.setSquare_cmd (q : Square) : (s.setSquare q).cmd = s.cmd := rfl
@[simp] theorem State.setSquare_ovr (q : Square) : (s.setSquare q).ovr = s.ovr := rfl
@[simp] theorem State.setSquare_ksv (q : Square) : (s.setSquare q).ksv = s.ksv := rfl
@[simp] theorem State.setSquare_ivv (q : Square) : (s.setSquare q).ivv = s.ivv := rfl
@[simp] theorem State.setSquare_hact (q : Square) : (s.setSquare q).hact = s.hact := rfl
@[simp] theorem State.setSquare_sqb (q : Square) : (s.setSquare q).sqb = s.sqb := rfl
@[simp] theorem State.setSquare_sqv (q : Square) : (s.setSquare q).sqv = s.sqv := rfl
@[simp] theorem State.setSquare_errcode (q : Square) : (s.setSquare q).errcode = s.errcode := rfl
@[simp] theorem State.setSquare_outlen (q : Square) : (s.setSquare q).outlen = s.outlen := rfl
@[simp] theorem State.setSquare_result (q : Square) : (s.setSquare q).result = s.result := rfl
@[simp] theorem State.setSquare_din (q : Square) : (s.setSquare q).din = s.din := rfl
@[simp] theorem State.setSquare_dout (q : Square) : (s.setSquare q).dout = s.dout := rfl
@[simp] theorem State.setSquare_sched (q : Square) : (s.setSquare q).sched = s.sched := rfl
@[simp] theorem State.setSquare_civ (q : Square) : (s.setSquare q).civ = s.civ := rfl
@[simp] theorem State.setSquare_h (q : Square) : (s.setSquare q).h = s.h := rfl
@[simp] theorem State.setSquare_mlen (q : Square) : (s.setSquare q).mlen = s.mlen := rfl
@[simp] theorem State.setSquare_sq (q : Square) : (s.setSquare q).sq = q.sq := rfl
@[simp] theorem State.setSquare_sqn (q : Square) : (s.setSquare q).sqn = q.sqn := rfl
@[simp] theorem State.setSquare_seen (q : Square) : (s.setSquare q).seen = q.seen := rfl
@[simp] theorem State.setSquare_pend (q : Square) : (s.setSquare q).pend = s.pend := rfl
@[simp] theorem State.setSquare_snap (q : Square) : (s.setSquare q).snap = s.snap := rfl
@[simp] theorem State.setSquare_agenda (q : Square) : (s.setSquare q).agenda = s.agenda := rfl
@[simp] theorem State.setSquare_rdata (q : Square) : (s.setSquare q).rdata = s.rdata := rfl
@[simp] theorem State.setSquare_draws (q : Square) : (s.setSquare q).draws = s.draws := rfl

/-! ### `State.serveRead` -/

@[simp] theorem State.serveRead_cmd (off : Nat) : (s.serveRead off).cmd = s.cmd := rfl
@[simp] theorem State.serveRead_ovr (off : Nat) : (s.serveRead off).ovr = s.ovr := rfl
@[simp] theorem State.serveRead_ksv (off : Nat) : (s.serveRead off).ksv = s.ksv := rfl
@[simp] theorem State.serveRead_ivv (off : Nat) : (s.serveRead off).ivv = s.ivv := rfl
@[simp] theorem State.serveRead_hact (off : Nat) : (s.serveRead off).hact = s.hact := rfl
@[simp] theorem State.serveRead_sqb (off : Nat) : (s.serveRead off).sqb = s.sqb := rfl
@[simp] theorem State.serveRead_sqv (off : Nat) : (s.serveRead off).sqv = s.sqv := rfl
@[simp] theorem State.serveRead_errcode (off : Nat) : (s.serveRead off).errcode = s.errcode := rfl
@[simp] theorem State.serveRead_outlen (off : Nat) : (s.serveRead off).outlen = s.outlen := rfl
@[simp] theorem State.serveRead_result (off : Nat) : (s.serveRead off).result = s.result := rfl
@[simp] theorem State.serveRead_din (off : Nat) : (s.serveRead off).din = s.din := rfl
@[simp] theorem State.serveRead_dout (off : Nat) : (s.serveRead off).dout = s.dout := rfl
@[simp] theorem State.serveRead_sched (off : Nat) : (s.serveRead off).sched = s.sched := rfl
@[simp] theorem State.serveRead_civ (off : Nat) : (s.serveRead off).civ = s.civ := rfl
@[simp] theorem State.serveRead_h (off : Nat) : (s.serveRead off).h = s.h := rfl
@[simp] theorem State.serveRead_mlen (off : Nat) : (s.serveRead off).mlen = s.mlen := rfl
@[simp] theorem State.serveRead_sq (off : Nat) : (s.serveRead off).sq = s.sq := rfl
@[simp] theorem State.serveRead_sqn (off : Nat) : (s.serveRead off).sqn = s.sqn := rfl
@[simp] theorem State.serveRead_seen (off : Nat) : (s.serveRead off).seen = s.seen := rfl
@[simp] theorem State.serveRead_pend (off : Nat) : (s.serveRead off).pend = s.pend := rfl
@[simp] theorem State.serveRead_snap (off : Nat) : (s.serveRead off).snap = s.snap := rfl
@[simp] theorem State.serveRead_agenda (off : Nat) : (s.serveRead off).agenda = s.agenda := rfl
@[simp] theorem State.serveRead_rdata (off : Nat) : (s.serveRead off).rdata = some (s.readData off) := rfl
@[simp] theorem State.serveRead_draws (off : Nat) : (s.serveRead off).draws = s.draws + 1 := rfl

/-! ### `State.writeDin` -/

@[simp] theorem State.writeDin_cmd (k : Nat) (v : Word) : (s.writeDin k v).cmd = s.cmd := rfl
@[simp] theorem State.writeDin_ovr (k : Nat) (v : Word) : (s.writeDin k v).ovr = s.ovr := rfl
@[simp] theorem State.writeDin_ksv (k : Nat) (v : Word) : (s.writeDin k v).ksv = s.ksv := rfl
@[simp] theorem State.writeDin_ivv (k : Nat) (v : Word) : (s.writeDin k v).ivv = s.ivv := rfl
@[simp] theorem State.writeDin_hact (k : Nat) (v : Word) : (s.writeDin k v).hact = s.hact := rfl
@[simp] theorem State.writeDin_sqb (k : Nat) (v : Word) : (s.writeDin k v).sqb = s.sqb := rfl
@[simp] theorem State.writeDin_sqv (k : Nat) (v : Word) : (s.writeDin k v).sqv = s.sqv := rfl
@[simp] theorem State.writeDin_errcode (k : Nat) (v : Word) : (s.writeDin k v).errcode = s.errcode := rfl
@[simp] theorem State.writeDin_outlen (k : Nat) (v : Word) : (s.writeDin k v).outlen = s.outlen := rfl
@[simp] theorem State.writeDin_result (k : Nat) (v : Word) : (s.writeDin k v).result = s.result := rfl
@[simp] theorem State.writeDin_din (k : Nat) (v : Word) : (s.writeDin k v).din = setBytes s.din (4 * k) (leBytes v) := rfl
@[simp] theorem State.writeDin_dout (k : Nat) (v : Word) : (s.writeDin k v).dout = s.dout := rfl
@[simp] theorem State.writeDin_sched (k : Nat) (v : Word) : (s.writeDin k v).sched = s.sched := rfl
@[simp] theorem State.writeDin_civ (k : Nat) (v : Word) : (s.writeDin k v).civ = s.civ := rfl
@[simp] theorem State.writeDin_h (k : Nat) (v : Word) : (s.writeDin k v).h = s.h := rfl
@[simp] theorem State.writeDin_mlen (k : Nat) (v : Word) : (s.writeDin k v).mlen = s.mlen := rfl
@[simp] theorem State.writeDin_sq (k : Nat) (v : Word) : (s.writeDin k v).sq = s.sq := rfl
@[simp] theorem State.writeDin_sqn (k : Nat) (v : Word) : (s.writeDin k v).sqn = s.sqn := rfl
@[simp] theorem State.writeDin_seen (k : Nat) (v : Word) : (s.writeDin k v).seen = s.seen := rfl
@[simp] theorem State.writeDin_pend (k : Nat) (v : Word) : (s.writeDin k v).pend = s.pend := rfl
@[simp] theorem State.writeDin_snap (k : Nat) (v : Word) : (s.writeDin k v).snap = s.snap := rfl
@[simp] theorem State.writeDin_agenda (k : Nat) (v : Word) : (s.writeDin k v).agenda = s.agenda := rfl
@[simp] theorem State.writeDin_rdata (k : Nat) (v : Word) : (s.writeDin k v).rdata = s.rdata := rfl
@[simp] theorem State.writeDin_draws (k : Nat) (v : Word) : (s.writeDin k v).draws = s.draws := rfl

/-! ### `State.withCommand` -/

@[simp] theorem State.withCommand_cmd (v : Word) : (s.withCommand v).cmd = s.cmd := rfl
@[simp] theorem State.withCommand_ovr (v : Word) : (s.withCommand v).ovr = s.ovr := rfl
@[simp] theorem State.withCommand_ksv (v : Word) : (s.withCommand v).ksv = s.ksv := rfl
@[simp] theorem State.withCommand_ivv (v : Word) : (s.withCommand v).ivv = s.ivv := rfl
@[simp] theorem State.withCommand_hact (v : Word) : (s.withCommand v).hact = s.hact := rfl
@[simp] theorem State.withCommand_sqb (v : Word) : (s.withCommand v).sqb = s.sqb := rfl
@[simp] theorem State.withCommand_sqv (v : Word) : (s.withCommand v).sqv = s.sqv := rfl
@[simp] theorem State.withCommand_errcode (v : Word) : (s.withCommand v).errcode = s.errcode := rfl
@[simp] theorem State.withCommand_outlen (v : Word) : (s.withCommand v).outlen = s.outlen := rfl
@[simp] theorem State.withCommand_result (v : Word) : (s.withCommand v).result = s.result := rfl
@[simp] theorem State.withCommand_din (v : Word) : (s.withCommand v).din = s.din := rfl
@[simp] theorem State.withCommand_dout (v : Word) : (s.withCommand v).dout = s.dout := rfl
@[simp] theorem State.withCommand_sched (v : Word) : (s.withCommand v).sched = s.sched := rfl
@[simp] theorem State.withCommand_civ (v : Word) : (s.withCommand v).civ = s.civ := rfl
@[simp] theorem State.withCommand_h (v : Word) : (s.withCommand v).h = s.h := rfl
@[simp] theorem State.withCommand_mlen (v : Word) : (s.withCommand v).mlen = s.mlen := rfl
@[simp] theorem State.withCommand_sq (v : Word) : (s.withCommand v).sq = s.sq := rfl
@[simp] theorem State.withCommand_sqn (v : Word) : (s.withCommand v).sqn = s.sqn := rfl
@[simp] theorem State.withCommand_seen (v : Word) : (s.withCommand v).seen = s.seen := rfl
@[simp] theorem State.withCommand_pend (v : Word) : (s.withCommand v).pend = some v := rfl
@[simp] theorem State.withCommand_snap (v : Word) : (s.withCommand v).snap = s.snap := rfl
@[simp] theorem State.withCommand_agenda (v : Word) : (s.withCommand v).agenda = .engine :: s.agenda := rfl
@[simp] theorem State.withCommand_rdata (v : Word) : (s.withCommand v).rdata = s.rdata := rfl
@[simp] theorem State.withCommand_draws (v : Word) : (s.withCommand v).draws = s.draws := rfl

end Sys2Proof.Machine
end

