-- ==== Sys2Proof/Laws/Ops.lean ====
section
/-! SUPPORT. What each shared operation can answer, said once: raising, checking, host accesses, the
engine's turn, and the step. -/

namespace Sys2Proof.Machine

variable {s t : State}

/-! ### Completing a command -/

@[simp] theorem State.raise_eq (s : State) (e : ErrCode) : s.raise e = .next (s.withErr e) := rfl

@[simp] theorem State.succeed_eq (s : State) : s.succeed = .next (s.withErr .ok) := rfl

@[simp] theorem State.require_true (s : State) (e : ErrCode) (k : Result) :
    s.require true e k = k := rfl

@[simp] theorem State.require_false (s : State) (e : ErrCode) (k : Result) :
    s.require false e k = .next (s.withErr e) := rfl

/-- A check that answers a next state either passed, or raised its error. -/
theorem State.require_eq_next {c : Bool} {e : ErrCode} {k : Result}
    (h : s.require c e k = .next t) :
    (c = true ∧ k = .next t) ∨ (c = false ∧ t = s.withErr e) := by
  cases c with
  | true => exact .inl ⟨rfl, h⟩
  | false => exact .inr ⟨rfl, by simpa using h.symm⟩

/-- Every code is in the table of rule R280. -/
theorem ErrCode.code_le (e : ErrCode) : e.code.toNat ≤ 0x0A := by cases e <;> decide

/-- Only `ok` has code 0. -/
theorem ErrCode.code_eq_zero {e : ErrCode} : e.code = 0 ↔ e = .ok := by cases e <;> decide

/-! ### Host accesses -/

/-- What a served write can do: be accepted or dropped (CMD), write DIN, or be ignored. -/
theorem State.writeReg_cases (s : State) (off : Nat) (v : Word) :
    (off = offCmd ∧ s.busy = true ∧ s.writeReg off v = { s with ovr := true }) ∨
    (off = offCmd ∧ s.busy = false ∧ s.writeReg off v =
      { s with
        cmd := v, pend := some v, snap := s.din, ovr := if opField v = 0 then false else s.ovr }) ∨
    (off ≠ offCmd ∧ isDin off = true ∧
      s.writeReg off v = s.writeDin ((off - offDin) / 4) v) ∨
    (off ≠ offCmd ∧ isDin off = false ∧ s.writeReg off v = s) := by
  unfold State.writeReg
  by_cases h : off = offCmd
  · cases hb : s.busy <;> simp [h, State.writeCmd, hb]
  · cases hd : isDin off <;> simp [h]

/-- An access that answers a next state lay outside the window, or was a served read, or a served
write. -/
theorem State.access_eq_next {a : Access} (h : s.access a = .next t) :
    (a.inWindow = false ∧ t = { s with rdata := none }) ∨
    (a.inWindow = true ∧ a.cached = false ∧ a.aligned = true ∧ a.data = none ∧
      t = s.serveRead a.off.toNat) ∨
    (a.inWindow = true ∧ a.cached = false ∧ a.aligned = true ∧
      ∃ v, a.data = some v ∧ t = s.serveWrite a.off.toNat v) := by
  unfold State.access at h
  cases hw : a.inWindow with
  | false => exact .inl ⟨rfl, by simpa [hw] using h.symm⟩
  | true =>
    cases hc : a.cached with
    | true => simp [hw, hc] at h
    | false =>
      cases ha : a.aligned with
      | false => simp [hw, hc, ha] at h
      | true =>
        cases hd : a.data with
        | none => exact .inr (.inl ⟨rfl, rfl, rfl, rfl, by simpa [hw, hc, ha, hd] using h.symm⟩)
        | some v =>
          exact .inr (.inr ⟨rfl, rfl, rfl, v, rfl, by simpa [hw, hc, ha, hd] using h.symm⟩)

/-- An aligned uncached access of the window is served. -/
theorem State.access_served {a : Access} (hw : a.inWindow = true) (hc : a.cached = false)
    (ha : a.aligned = true) :
    s.access a = .next (match a.data with
      | none => s.serveRead a.off.toNat
      | some v => s.serveWrite a.off.toNat v) := by
  cases hd : a.data <;> simp [State.access, hw, hc, ha, hd]

/-! ### The engine -/

/-- Retiring answers a next state exactly when the command did. -/
theorem retireResult_eq_next {r : Result} :
    retireResult r = .next t ↔ ∃ u, r = .next u ∧ t = u.retire := by
  cases r <;> simp [retireResult, eq_comm]

/-- What executing a word can be: an error of its decoding, or the command's own execution. -/
theorem State.execWord_cases (s : State) (v : Word) :
    (∃ e, decode v = .error e ∧ s.execWord v = .next (s.withErr (decodeErrCode e))) ∨
    (∃ i, decode v = .ok i ∧ s.execWord v = exec i s) := by
  unfold State.execWord
  cases h : decode v with
  | error e => exact .inl ⟨e, rfl, rfl⟩
  | ok i => exact .inr ⟨i, rfl, rfl⟩

/-- The engine's turn with no command in PEND waits. -/
theorem State.engineTurn_idle (h : s.pend = none) : s.engineTurn = .next s := by
  simp [State.engineTurn, h]

/-- The engine's turn with a command in PEND executes it and empties PEND. -/
theorem State.engineTurn_busy {v : Word} (h : s.pend = some v) :
    s.engineTurn = retireResult (s.execWord v) := by
  simp [State.engineTurn, h]

/-- The engine's turn that answers a next state waited, or completed the word in PEND. -/
theorem State.engineTurn_eq_next (h : s.engineTurn = .next t) :
    (s.pend = none ∧ t = s) ∨
    ∃ v u, s.pend = some v ∧ s.execWord v = .next u ∧ t = u.retire := by
  cases hp : s.pend with
  | none => exact .inl ⟨rfl, by simpa [State.engineTurn, hp] using h.symm⟩
  | some v =>
    rw [State.engineTurn_busy hp] at h
    obtain ⟨u, hu, ht⟩ := retireResult_eq_next.mp h
    exact .inr ⟨v, u, rfl, hu, ht⟩

/-! ### The step -/

/-- A step with no event left is the engine's turn. -/
theorem step_of_no_event (h : s.agenda = []) : step s = s.engineTurn := by
  simp [step, State.advance, h]

/-- A step with events left is the first of them. -/
theorem step_of_event {e : Event} {rest : List Event} (h : s.agenda = e :: rest) :
    step s = ({ s with agenda := rest } : State).event e := by
  simp [step, State.advance, h]

/-- What a step can be: an access, a reset, or the engine's turn, on the state whose agenda has lost that
event. -/
theorem step_cases (s : State) :
    (∃ a rest, s.agenda = .access a :: rest ∧
      step s = ({ s with agenda := rest } : State).access a) ∨
    (∃ rest, s.agenda = .reset :: rest ∧
      step s = .next ({ s with agenda := rest } : State).hwReset) ∨
    (∃ rest, (s.agenda = .engine :: rest ∨ (s.agenda = [] ∧ rest = [])) ∧
      step s = ({ s with agenda := rest } : State).engineTurn) := by
  cases h : s.agenda with
  | nil =>
    refine .inr (.inr ⟨[], .inr ⟨rfl, rfl⟩, ?_⟩)
    rw [step_of_no_event h]
    congr 1
    cases s
    simp_all
  | cons e rest =>
    rw [step_of_event h]
    cases e with
    | access a => exact .inl ⟨a, rest, rfl, rfl⟩
    | reset => exact .inr (.inl ⟨rest, rfl, rfl⟩)
    | engine => exact .inr (.inr ⟨rest, .inl rfl, rfl⟩)

end Sys2Proof.Machine
end

