-- ==== Sys2Proof/Laws/PerInstr.lean ====
section
/-! SUPPORT. Families of statements made per instruction. `EncodeFields`: the encoder puts each byte of a
command in its field (rule R90). -/

namespace Sys2Proof

/-- The four fields of a command word built from its bytes (rule R90). -/
theorem commandWord_fields (op len arg : Byte) :
    opField (commandWord op len arg) = op ∧ lenField (commandWord op len arg) = len ∧
    argField (commandWord op len arg) = arg ∧ rsvdField (commandWord op len arg) = 0 := by
  have ext : ∀ {a b : Byte}, (∀ i, i < 8 → a.getLsbD i = b.getLsbD i) → a = b :=
    fun h => BitVec.eq_of_getLsbD_eq h
  refine ⟨ext ?_, ext ?_, ext ?_, ext ?_⟩ <;> intro i hi <;>
    simp only [opField, lenField, argField, rsvdField, commandWord, BitVec.getLsbD_extractLsb',
      BitVec.getLsbD_or, BitVec.getLsbD_shiftLeft, BitVec.getLsbD_setWidth] <;>
    interval_cases i <;> simp

end Sys2Proof

/-- The fields of the command word of `i` are its OP, LEN and ARG bytes, and RSVD is 0. -/
def Sys2Proof.Laws.EncodeFields.Statement (i : Sys2Proof.Instr) : Prop :=
  Sys2Proof.opField (Sys2Proof.encode i) = i.opByte ∧
  Sys2Proof.lenField (Sys2Proof.encode i) = i.lenByte ∧
  Sys2Proof.argField (Sys2Proof.encode i) = i.argByte ∧
  Sys2Proof.rsvdField (Sys2Proof.encode i) = 0

namespace Sys2Proof.Laws.EncodeFields

theorem nop : Statement (.nop) := commandWord_fields _ _ _
theorem zeroize : Statement (.zeroize) := commandWord_fields _ _ _
theorem bcKey : Statement (.bcKey) := commandWord_fields _ _ _
theorem bcEnc : Statement (.bcEnc) := commandWord_fields _ _ _
theorem ofbIv : Statement (.ofbIv) := commandWord_fields _ _ _
theorem ofbBlk : Statement (.ofbBlk) := commandWord_fields _ _ _
theorem ofbEncFin (len : Nat) : Statement (.ofbEncFin len) := commandWord_fields _ _ _
theorem ofbDecFin : Statement (.ofbDecFin) := commandWord_fields _ _ _
theorem hInit : Statement (.hInit) := commandWord_fields _ _ _
theorem hBlk : Statement (.hBlk) := commandWord_fields _ _ _
theorem hFin (len : Nat) : Statement (.hFin len) := commandWord_fields _ _ _
theorem psStart : Statement (.psStart) := commandWord_fields _ _ _
theorem psFeed (len : Nat) : Statement (.psFeed len) := commandWord_fields _ _ _
theorem psFinish : Statement (.psFinish) := commandWord_fields _ _ _
theorem psLook (row col : Nat) : Statement (.psLook row col) := commandWord_fields _ _ _
theorem psRlook (c : Byte) : Statement (.psRlook c) := commandWord_fields _ _ _
theorem bfFilter (len : Nat) (upcase foldj : Bool) : Statement (.bfFilter len upcase foldj) := commandWord_fields _ _ _
theorem bfEnc (len : Nat) : Statement (.bfEnc len) := commandWord_fields _ _ _
theorem bfDec (len : Nat) : Statement (.bfDec len) := commandWord_fields _ _ _

end Sys2Proof.Laws.EncodeFields
end

