-- ==== Sys2Proof/Laws/Procedures.lean ====
section
/-! SUPPORT. What the host procedures' shared parts can do: running one command, cutting a text into
pieces, and the periods that the text procedures refuse. -/

namespace Sys2Proof.Machine

variable {s t : State}

/-! ### One command -/

/-- A command that ran is well-formed, its events answered the state, and CHECK found no error. -/
theorem State.runCommand_eq_some {bytes : List Byte} {i : Instr} :
    s.runCommand bytes i = some t ↔
      i.wellFormed = true ∧ s.runEvents (evLoadb bytes ++ evIssue i) = .next t ∧ t.errcode = 0 := by
  unfold State.runCommand
  cases i.wellFormed with
  | false => simp
  | true =>
    cases s.runEvents (evLoadb bytes ++ evIssue i) with
    | next u =>
      simp only [if_true, Option.ite_none_right_eq_some, Option.some.injEq, Host.Outcome.next.injEq,
        true_and]
      exact ⟨fun ⟨he, h⟩ => ⟨h, h ▸ he⟩, fun ⟨h, he⟩ => ⟨h ▸ he, h⟩⟩
    | fault _ => simp
    | refused _ => simp

/-- A command with an operand outside its range is not issued. -/
theorem State.runCommand_of_not_wellFormed {bytes : List Byte} {i : Instr}
    (h : i.wellFormed = false) : s.runCommand bytes i = none := by
  simp [State.runCommand, h]

/-- An IV of another length than 16 bytes is not loaded (rule R123). -/
theorem State.runOfbIv_of_length_ne {iv : List Byte} (h : iv.length ≠ 16) :
    s.runOfbIv iv = none := by
  simp [State.runOfbIv, h]

/-- Events in two parts are the first part's, then the second's. -/
theorem State.runEvents_append (s : State) (xs ys : List Event) :
    s.runEvents (xs ++ ys) =
      match s.runEvents xs with
      | .next t => t.runEvents ys
      | .fault r => .fault r
      | .refused r => .refused r := by
  induction xs generalizing s with
  | nil => rfl
  | cons x xs ih =>
    simp only [List.cons_append, State.runEvents]
    cases s.event x with
    | next t => exact ih t
    | fault _ => rfl
    | refused _ => rfl

/-! ### Pieces -/

/-- The pieces of a text, joined, are the text. -/
theorem piecesOf_flatten {n fuel : Nat} {text : List Byte} (hn : 1 ≤ n) (hf : text.length ≤ fuel) :
    (piecesOf n fuel text).flatten = text := by
  induction fuel generalizing text with
  | zero => simp [piecesOf, List.length_eq_zero_iff.mp (Nat.le_zero.mp hf)]
  | succ fuel ih =>
    rw [piecesOf]
    split
    · simp_all
    · rw [List.flatten_cons, ih (by rw [List.length_drop]; omega), List.take_append_drop]

/-- No piece is longer than its cut. -/
theorem length_le_of_mem_piecesOf {n fuel : Nat} {text p : List Byte}
    (h : p ∈ piecesOf n fuel text) : p.length ≤ n := by
  induction fuel generalizing text with
  | zero => simp [piecesOf] at h
  | succ fuel ih =>
    rw [piecesOf] at h
    split at h
    · simp at h
    · rcases List.mem_cons.mp h with rfl | h
      · exact List.length_take_le ..
      · exact ih h

/-! ### Periods -/

theorem periodValid_iff {period : Nat} : periodValid period = true ↔ 1 ≤ period ∧ period ≤ 64 := by
  simp [periodValid]

/-- A text procedure that answers had a period in 1..64, filtered the text, and ran its chunks. -/
theorem State.bifidText_eq_some {filter chunk : Nat → Instr} {period : Nat} {text out : List Byte} :
    s.bifidText filter chunk period text = some (out, t) ↔
      (1 ≤ period ∧ period ≤ 64) ∧ ∃ letters u,
        s.runPieces filter (piecesOf 64 text.length text) = some (letters, u) ∧
        u.runPieces chunk (piecesOf period letters.length letters) = some (out, t) := by
  rw [← periodValid_iff, State.bifidText]
  cases periodValid period <;> simp [Option.bind_eq_some_iff]

/-- Every period outside 1..64 is refused, whatever the text (U12). -/
theorem State.bifidText_refuses {filter chunk : Nat → Instr} {period : Nat} {text : List Byte}
    (h : period = 0 ∨ 64 < period) : s.bifidText filter chunk period text = none := by
  have hp : periodValid period = false := by simp [periodValid]; omega
  simp [State.bifidText, hp]

end Sys2Proof.Machine
end

