-- ==== Sys2Proof/Laws/Units.lean ====
section
/-! SUPPORT. The lengths of what the units put out, and what the square's and the bifid operations do. -/

namespace Sys2Proof.Machine

/-! ### Lengths -/

@[simp] theorem blockOut_length (S : Vector Word 44) (r : BlockRegs) :
    (blockOut S r).length = 16 := rfl

@[simp] theorem blockTransform_length (S : Vector Word 44) (blk : List Byte) :
    (blockTransform S blk).length = 16 := rfl

@[simp] theorem State.keystream_length (s : State) : s.keystream.length = 16 := rfl

theorem pkcsPad_length {x : List Byte} (h : x.length ≤ 16) : (pkcsPad x).length = 16 := by
  simp [pkcsPad, h]

theorem pkcsUnpad_length_le (x : List Byte) : (pkcsUnpad x).length ≤ 16 := by
  simp [pkcsUnpad]

@[simp] theorem digestBytes_length (H : Vector Word 5) : (digestBytes H).length = 20 := by
  simp [digestBytes, List.length_flatMap]

/-- The padded tail fills one block up to 55 bytes and two blocks up to 63 (rule R197). -/
theorem hashTail_length {r : List Byte} (lbits : BitVec 64) (h : r.length ≤ 63) :
    (hashTail r lbits).length = if r.length ≤ 55 then 64 else 128 := by
  simp only [hashTail, tailZeros, List.length_append, List.length_cons, List.length_nil,
    List.length_replicate, beBytes64_length]
  split <;> omega

theorem filterText_length_le (upcase foldj : Bool) (x : List Byte) :
    (filterText upcase foldj x).length ≤ x.length := List.length_filterMap_le ..

theorem cellsOfPairs_length (sq : Vector Byte 25) :
    ∀ l : List Nat, (cellsOfPairs sq l).length = l.length / 2
  | [] => rfl
  | [_] => by simp [cellsOfPairs]
  | _ :: _ :: rest => by
    simp [cellsOfPairs, cellsOfPairs_length sq rest]; omega

@[simp] theorem bifidEncrypt_length (sq : Vector Byte 25) (x : List Byte) :
    (bifidEncrypt sq x).length = x.length := by
  simp [bifidEncrypt, cellsOfPairs_length]; omega

@[simp] theorem flatCoords_length (sq : Vector Byte 25) (y : List Byte) :
    (flatCoords sq y).length = 2 * y.length := by
  simp [flatCoords, List.length_flatMap]; omega

@[simp] theorem bifidDecrypt_length (sq : Vector Byte 25) (y : List Byte) :
    (bifidDecrypt sq y).length = y.length := by
  simp [bifidDecrypt]; omega

/-! ### Output -/

/-- A command's output of at most 64 bytes is what DOUT starts with; zeros follow (rule R28). -/
theorem State.produce_isOutput {out : List Byte} (s : State) (h : out.length ≤ 64) :
    IsOutput out (s.produce out).dout :=
  ⟨h, vecOfList_toList_of_le h⟩

/-- READOUT after an output of at most 64 bytes is that output. -/
theorem State.readout_produce {out : List Byte} (s : State) (h : out.length ≤ 64) :
    (s.produce out).readout = out := by
  have hl : out.length % 128 = out.length := Nat.mod_eq_of_lt (by omega)
  simp [State.readout, vecOfList_toList_of_le h, hl]

/-! ### The square -/

/-- The letters that key bytes become are square letters. -/
theorem keyLetter_mem_alpha25 : ∀ {c x : Byte}, keyLetter c = some x → x ∈ Config.alpha25 := by
  have h : ∀ n : Nat, n < 256 → ∀ x, keyLetter (BitVec.ofNat 8 n) = some x → x ∈ Config.alpha25 := by
    decide +kernel
  intro c x hx
  exact h c.toNat c.isLt x (by simpa using hx)

/-- The place of a square letter in ALPHA25. -/
theorem alphaIndex_lt {c : Byte} (h : c ∈ Config.alpha25) : alphaIndex c < 25 :=
  List.idxOf_lt_length_of_mem h

/-- Placing a letter that is already placed changes nothing. -/
theorem Square.place_of_seen {q : Square} {c : Byte} (h : q.hasSeen c = true) : q.place c = q := by
  simp [Square.place, h]

/-- Placing a new letter writes the next cell and marks the letter. -/
theorem Square.place_of_not_seen {q : Square} {c : Byte} (h : q.hasSeen c = false) :
    q.place c =
      { sq := q.sq.setIfInBounds q.sqn c, sqn := q.sqn + 1,
        seen := q.seen.setIfInBounds (alphaIndex c) true } := by
  simp [Square.place, h]

/-- A key fed in two pieces is fed whole (rule R223). -/
theorem Square.feed_append (q : Square) (k1 k2 : List Byte) :
    q.feed (k1 ++ k2) = (q.feed k1).feed k2 := by
  simp [Square.feed]

/-- Coordinates of a letter of the square lie in 0..4 and find it (rule R225). -/
theorem coordOf_spec {sq : Vector Byte 25} {c : Byte} (h : c ∈ sq.toList) :
    (coordOf sq c).1 < 5 ∧ (coordOf sq c).2 < 5 ∧ cell sq (coordOf sq c).1 (coordOf sq c).2 = c := by
  have hlt : sq.toList.idxOf c < 25 := by simpa using List.idxOf_lt_length_of_mem h
  refine ⟨by simp [coordOf]; omega, by simp [coordOf]; omega, ?_⟩
  have hidx : 5 * (sq.toList.idxOf c / 5) + sq.toList.idxOf c % 5 = sq.toList.idxOf c := by omega
  have hget : sq.toList[sq.toList.idxOf c]? = some c := List.getElem?_idxOf h
  rw [Vector.getElem?_toList] at hget
  simp [cell, coordOf, hidx, Vector.getD, hget]

end Sys2Proof.Machine
end

