-- ==== Sys2Proof/Tests/Slice0.lean ====
section
/-! SUPPORT. The model's own tests: the smoke tests of the well-formedness checks, each command's word
written out from rule R95, one step of each command against the values of 95_test_vectors.md, and for
each statement with hypotheses a concrete state that meets them. -/

set_option Elab.async false

namespace Sys2Proof.Tests

open Sys2Proof.Machine

/-! ### Well-formedness: each check refuses an ill-formed term -/

theorem test_wf_ofbEncFin_len16 : (Instr.ofbEncFin 16).wellFormed = false := by decide
theorem test_wf_hFin_len64 : (Instr.hFin 64).wellFormed = false := by decide
theorem test_wf_psFeed_len65 : (Instr.psFeed 65).wellFormed = false := by decide
theorem test_wf_psLook_row8 : (Instr.psLook 8 0).wellFormed = false := by decide
theorem test_wf_psLook_col8 : (Instr.psLook 0 8).wellFormed = false := by decide
theorem test_wf_bfFilter_len65 : (Instr.bfFilter 65 true true).wellFormed = false := by decide
theorem test_wf_bfEnc_len65 : (Instr.bfEnc 65).wellFormed = false := by decide
theorem test_wf_bfDec_len65 : (Instr.bfDec 65).wellFormed = false := by decide
theorem test_wf_boundaries :
    (Instr.ofbEncFin 15).wellFormed ∧ (Instr.hFin 63).wellFormed ∧ (Instr.psFeed 64).wellFormed ∧
    (Instr.psLook 7 7).wellFormed ∧ (Instr.bfFilter 64 false true).wellFormed ∧
    (Instr.bfEnc 64).wellFormed ∧ (Instr.bfDec 64).wellFormed ∧ (Instr.psRlook 0xFF).wellFormed := by
  decide

/-! ### Decoding: words written out as RSVD, ARG, LEN, OP (rules R90, R95, R101) -/

theorem test_decode_control :
    decode 0x00000000 = .ok .nop ∧ decode 0x00000001 = .ok .zeroize := by decide +kernel
theorem test_decode_block_cipher :
    decode 0x00001010 = .ok .bcKey ∧ decode 0x00001011 = .ok .bcEnc := by decide +kernel
theorem test_decode_stream :
    decode 0x00001020 = .ok .ofbIv ∧ decode 0x00001021 = .ok .ofbBlk ∧
    decode 0x00000522 = .ok (.ofbEncFin 5) ∧ decode 0x00000F22 = .ok (.ofbEncFin 15) ∧
    decode 0x00001023 = .ok .ofbDecFin := by decide +kernel
theorem test_decode_hash :
    decode 0x00000030 = .ok .hInit ∧ decode 0x00004031 = .ok .hBlk ∧
    decode 0x00000332 = .ok (.hFin 3) ∧ decode 0x00003F32 = .ok (.hFin 63) := by decide +kernel
theorem test_decode_square :
    decode 0x00000040 = .ok .psStart ∧ decode 0x00000741 = .ok (.psFeed 7) ∧
    decode 0x00004041 = .ok (.psFeed 64) ∧ decode 0x00000042 = .ok .psFinish ∧
    decode 0x00230043 = .ok (.psLook 2 3) ∧ decode 0x00700043 = .ok (.psLook 7 0) ∧
    decode 0x00510044 = .ok (.psRlook 0x51) ∧ decode 0x00FF0044 = .ok (.psRlook 0xFF) := by
  decide +kernel
theorem test_decode_bifid :
    decode 0x00031250 = .ok (.bfFilter 18 true true) ∧
    decode 0x00011250 = .ok (.bfFilter 18 true false) ∧
    decode 0x00021250 = .ok (.bfFilter 18 false true) ∧ decode 0x00000551 = .ok (.bfEnc 5) ∧
    decode 0x00000552 = .ok (.bfDec 5) := by decide +kernel

/-- Vectors C2 to C9, P13, P14, F7, F19a of 95_test_vectors.md. -/
theorem test_decode_rejects :
    decode 0x01000000 = .error .rsvd ∧ decode 0x00000002 = .error .reservedOp ∧
    decode 0x00000012 = .error .reservedOp ∧ decode 0x000000FF = .error .reservedOp ∧
    decode 0x00010000 = .error .argForm ∧ decode 0x00000100 = .error .badLen ∧
    decode 0x01001110 = .error .rsvd ∧ decode 0x00011110 = .error .argForm ∧
    decode 0x00080043 = .error .argForm ∧ decode 0x00800043 = .error .argForm ∧
    decode 0x00040050 = .error .argForm ∧ decode 0x00004152 = .error .badLen := by decide +kernel

theorem test_decodeTableWord :
    decodeTableWord 32 0x00000551 = some (.bfEnc 5) ∧ decodeTableWord 32 0x00000012 = none := by
  decide +kernel

/-! ### One step of each command -/

/-- A field of what a step answers. -/
def got {α : Type} (r : Host.Outcome State Fault Refusal) (f : State → α) : Option α :=
  match r with
  | .next s => some (f s)
  | _ => none

/-- The step that runs the command word `w` with the operand bytes `snap`. -/
def runWord (s : State) (snap : List Byte) (w : Nat) : Host.Outcome State Fault Refusal :=
  step (({ s with snap := vecOfList 64 0 snap } : State).withFetchWord 32 w)

/-- The state of vector C15: OVR = 1, KSV = 1. -/
def afterDrop : State := { State.reset with ovr := true, ksv := true }

/-- The key 00 01 .. 0f and the IV f0 e0 .. 00 of 95_test_vectors.md section 2.3. -/
def key0f : List Byte := (List.range 16).map (BitVec.ofNat 8)
def ivF0 : List Byte := (List.range 16).map fun i => BitVec.ofNat 8 (0xF0 - 16 * i)

/-- A loaded key and an open stream on them. -/
def opened : State :=
  { State.reset with
    sched := keyExpand key0f, ksv := true, civ := vecOfList 16 0 ivF0, ivv := true }

/-- A digest just started. -/
def hashing : State := { State.reset with h := Config.hashInit, hact := true }

/-- A build just started. -/
def building : State := { State.reset with sqb := true }

/-- The square of key "KEYWORD" (44_polybius.md, rule R224), finished. -/
def keyword : State :=
  { State.reset with
    sq := vecOfList 25 0
      [0x4B, 0x45, 0x59, 0x57, 0x4F, 0x52, 0x44, 0x41, 0x42, 0x43, 0x46, 0x47, 0x48, 0x49, 0x4C,
       0x4D, 0x4E, 0x50, 0x51, 0x53, 0x54, 0x55, 0x56, 0x58, 0x5A]
    sqn := 25, seen := Vector.replicate 25 true, sqv := true }

/-- Vector C1. -/
theorem test_nop_status : got (runWord State.reset [] 0x00000000) State.status = some 0 := by
  decide +kernel

/-- Vector C15: OVR stays. -/
theorem test_zeroize_keeps_ovr :
    got (runWord afterDrop [] 0x00000001) State.status = some 0x00000002 := by decide +kernel

/-- 41_block_cipher.md, rule R134, example. -/
theorem test_bcKey_zero_key :
    got (runWord State.reset [] 0x00001010) (fun t => (t.sched[0], t.sched[1], t.sched[43])) =
      some (0x2A66311C, 0x9B17852D, 0x4B38AC83) := by decide +kernel

/-- Vector B10: a new key ends the stream. -/
theorem test_bcKey_ends_stream :
    got (runWord opened [] 0x00001010) State.status = some 0x00000004 := by decide +kernel

/-- Vector B3. -/
theorem test_bcEnc_vector :
    got (runWord opened [] 0x00001011) (fun t => (t.regAt 0x80, t.regAt 0x8C, t.outlen, t.status)) =
      some (0xDAFE95D5, 0x1D6084ED, 16, 0x0000000C) := by decide +kernel

/-- Vector B6. -/
theorem test_bcEnc_no_key :
    got (runWord State.reset [] 0x00001011) State.status = some 0x00000300 := by decide +kernel

/-- Vector O21. -/
theorem test_ofbIv_no_key :
    got (runWord State.reset ivF0 0x00001020) (fun t => (t.status, t.civ.toList)) =
      some (0x00000008, ivF0) := by decide +kernel

/-- 42_stream_mode.md, rule R163, example: K1. -/
theorem test_ofbBlk_first_keystream :
    got (runWord opened [] 0x00001021) (fun t => (t.readout, t.civ.toList, t.ivv)) =
      some ([0x3C, 0x45, 0xB8, 0xD7, 0x16, 0xDE, 0x99, 0x4A, 0xB5, 0x30, 0x03, 0xAF, 0x40, 0x59,
          0xE5, 0xF2],
        [0x3C, 0x45, 0xB8, 0xD7, 0x16, 0xDE, 0x99, 0x4A, 0xB5, 0x30, 0x03, 0xAF, 0x40, 0x59,
          0xE5, 0xF2], true) := by decide +kernel

/-- Vector O17: KSV is checked before IVV. -/
theorem test_ofbBlk_no_key :
    got (runWord State.reset [] 0x00001021) State.status = some 0x00000300 := by decide +kernel

/-- Vector O2, "hello"; the bytes past LEN are ignored. -/
theorem test_ofbEncFin_hello :
    got (runWord opened [0x68, 0x65, 0x6C, 0x6C, 0x6F, 0xFF] 0x00000522)
        (fun t => (t.readout, t.status)) =
      some ([0x54, 0x20, 0xD4, 0xBB, 0x79, 0xD5, 0x92, 0x41, 0xBE, 0x3B, 0x08, 0xA4, 0x4B, 0x52,
        0xEE, 0xF9], 0x00000004) := by decide +kernel

/-- Vector O1: the full pad block, 2c55… -/
theorem test_ofbEncFin_empty :
    got (runWord opened [] 0x00000022) (fun t => t.regAt 0x80) = some 0xC7A8552C := by
  decide +kernel

/-- Vector O2, decrypted. -/
theorem test_ofbDecFin_hello :
    got (runWord opened [0x54, 0x20, 0xD4, 0xBB, 0x79, 0xD5, 0x92, 0x41, 0xBE, 0x3B, 0x08, 0xA4,
        0x4B, 0x52, 0xEE, 0xF9] 0x00001023) (fun t => (t.readout, t.status)) =
      some ([0x68, 0x65, 0x6C, 0x6C, 0x6F], 0x00000004) := by decide +kernel

/-- Vector O7: byte 15 xor 01. -/
theorem test_ofbDecFin_bad_padding :
    got (runWord opened [0x54, 0x20, 0xD4, 0xBB, 0x79, 0xD5, 0x92, 0x41, 0xBE, 0x3B, 0x08, 0xA4,
        0x4B, 0x52, 0xEE, 0xF8] 0x00001023) (fun t => (t.outlen, t.status)) =
      some (0, 0x00000A0C) := by decide +kernel

/-- 43_hash160.md, rule R193, example. -/
theorem test_hInit_status :
    got (runWord State.reset [] 0x00000030) State.status = some 0x00000010 := by decide +kernel

/-- 95_test_vectors.md section 2.4, internal state after 64 bytes 'a'. -/
theorem test_hBlk_state :
    got (runWord hashing (List.replicate 64 0x61) 0x00004031) (fun t => (t.h, t.mlen)) =
      some (#v[0xDA4968EB, 0x2E377C1F, 0x884E8F52, 0x83524BEB, 0xE74EBDBD], 512) := by
  decide +kernel

/-- Vector H2, "abc". -/
theorem test_hFin_abc :
    got (runWord hashing [0x61, 0x62, 0x63] 0x00000332)
        (fun t => (t.regAt 0x80, t.regAt 0x90, t.outlen, t.status)) =
      some (0x363E99A9, 0x9DD8D09C, 20, 0) := by decide +kernel

/-- Vector H4: 56 bytes take two compressions. -/
theorem test_hFin_two_blocks :
    got (runWord hashing (List.replicate 56 0x61) 0x00003832) (fun t => t.regAt 0x80) =
      some 0x0F33DBC2 := by decide +kernel

/-- Vector P26: the old square is gone. -/
theorem test_psStart_destroys_square :
    got (runWord keyword [] 0x00000040) (fun t => (t.status, t.sqn, t.sq[0])) =
      some (0x00000020, 0, 0) := by decide +kernel

/-- Vector P4, "Jumbo jet 42". -/
theorem test_psFeed_jumbo :
    got (runWord building [0x4A, 0x75, 0x6D, 0x62, 0x6F, 0x20, 0x6A, 0x65, 0x74, 0x20, 0x34, 0x32]
        0x00000C41) (fun t => (t.sqn, t.sq.toList.take 8)) =
      some (7, [0x49, 0x55, 0x4D, 0x42, 0x4F, 0x45, 0x54, 0x00]) := by decide +kernel

/-- Vector P22. -/
theorem test_psFinish_not_building :
    got (runWord State.reset [] 0x00000042) State.status = some 0x00000600 := by decide +kernel

/-- Vector P1: with no letters fed, SQ = ALPHA25. -/
theorem test_psFinish_empty_key :
    got (runWord building [] 0x00000042) (fun t => (t.sq.toList, t.sqn, t.status)) =
      some (Config.alpha25, 25, 0x00000040) := by decide +kernel

/-- Vector P8. -/
theorem test_psLook_I : got (runWord keyword [] 0x00230043) (fun t => t.result) = some 0x49 := by
  decide +kernel

/-- Vector P11. -/
theorem test_psLook_range :
    got (runWord keyword [] 0x00500043) State.status = some 0x00000840 := by decide +kernel

/-- Vector P15. -/
theorem test_psRlook_Q : got (runWord keyword [] 0x00510044) (fun t => t.result) = some 0x33 := by
  decide +kernel

/-- Vector P18: no J in the square. -/
theorem test_psRlook_J :
    got (runWord keyword [] 0x004A0044) State.status = some 0x00000940 := by decide +kernel

/-- "Hello, World! Jazz" (95_test_vectors.md section 2.6). -/
def hello : List Byte :=
  [0x48, 0x65, 0x6C, 0x6C, 0x6F, 0x2C, 0x20, 0x57, 0x6F, 0x72, 0x6C, 0x64, 0x21, 0x20, 0x4A, 0x61,
   0x7A, 0x7A]

/-- Vector F1. -/
theorem test_bfFilter_both :
    got (runWord State.reset hello 0x00031250) State.readout =
      some [0x48, 0x45, 0x4C, 0x4C, 0x4F, 0x57, 0x4F, 0x52, 0x4C, 0x44, 0x49, 0x41, 0x5A, 0x5A] := by
  decide +kernel

/-- Vector F3. -/
theorem test_bfFilter_fold_only :
    got (runWord State.reset hello 0x00021250) State.readout = some [0x48, 0x57, 0x49] := by
  decide +kernel

/-- Vector F8, HELLO to FHYCZ. -/
theorem test_bfEnc_hello :
    got (runWord keyword [0x48, 0x45, 0x4C, 0x4C, 0x4F] 0x00000551) State.readout =
      some [0x46, 0x48, 0x59, 0x43, 0x5A] := by decide +kernel

/-- Vector F17, HEJLO. -/
theorem test_bfEnc_J :
    got (runWord keyword [0x48, 0x45, 0x4A, 0x4C, 0x4F] 0x00000551) State.status =
      some 0x00000940 := by decide +kernel

/-- Vector F8, decrypted. -/
theorem test_bfDec_fhycz :
    got (runWord keyword [0x46, 0x48, 0x59, 0x43, 0x5A] 0x00000552) State.readout =
      some [0x48, 0x45, 0x4C, 0x4C, 0x4F] := by decide +kernel

/-! ### The window -/

/-- Vector C10: a CMD write while BUSY is dropped. -/
theorem test_cmd_write_dropped :
    got (({ State.reset with cmd := 0x1011, pend := some 0x1011, ksv := true } : State).event
        (evWrite 0 0)) (fun t => (t.cmd, t.pend, t.ovr)) = some (0x1011, some 0x1011, true) := by
  decide +kernel

/-- Rule R120: OVR is cleared at acceptance even when the word then raises E_LEN. -/
theorem test_nop_word_clears_ovr :
    got (afterDrop.event (evWrite 0 0x00000100)) (fun t => (t.ovr, t.pend)) =
      some (false, some 0x00000100) := by decide +kernel

/-- Program P2: DIN[0] takes "abc", the low byte first. -/
theorem test_din_write :
    got (State.reset.event (evWrite 0x40 0x00636261)) (fun t => (t.din.toList.take 4, t.regAt 0x40)) =
      some ([0x61, 0x62, 0x63, 0x00], 0x00636261) := by decide +kernel

/-- Rule R68: a byte access is a bus error. -/
theorem test_byte_access_faults :
    State.reset.event (.access { off := 0x40, size := 1, data := none, cached := false }) =
      .fault .busError := rfl

/-- Rule R60: below the window nothing reaches the block. -/
theorem test_outside_window :
    State.reset.event (.access { off := -4, size := 1, data := none, cached := false }) =
      .next State.reset := rfl

/-- U4: a cached mapping is refused. -/
theorem test_cached_refused :
    State.reset.event (.access { off := 0x40, size := 4, data := none, cached := true }) =
      .refused .cachedWindow := rfl

/-! ### The host procedures -/

/-- U12: period 0 is refused for every text, and so is 65. -/
theorem test_bifid_period_refused :
    keyword.bifidEncryptText 0 [0x41] = none ∧ keyword.bifidDecryptText 65 [] = none :=
  ⟨State.bifidText_refuses (by decide), State.bifidText_refuses (by decide)⟩

/-- A chunk of 257 letters is not issued as LEN 1. -/
theorem test_chunk_257_not_issued :
    keyword.runCommand (List.replicate 257 0x41) (.bfEnc 257) = none :=
  State.runCommand_of_not_wellFormed (by decide)

/-! ### Witnesses: a concrete state that meets each statement's hypotheses -/

/-- A command word in flight, with accesses of each kind still to come. -/
def inFlight : State :=
  { State.reset with
    cmd := 0x00001010, pend := some 0x00001010
    agenda := [evRead offStatus, evWrite offCmd 1, evWrite 0x7C 7,
      .access { off := 0x100, size := 1, data := none, cached := true }] }

theorem test_wit_DecodeOfEncodeIsIdentity : (Instr.psLook 7 7).wellFormed = true := by decide

theorem test_wit_EncodeOfDecodeIsIdentity : decode 0x00770043 = .ok (.psLook 7 7) := by
  decide +kernel

/-- Every branch of the chain has a word: RSVD, OP, the three ARG forms, LEN, and the command. -/
theorem test_wit_DecodeChecksRunInOrder :
    (0x80000053 : Word).extractLsb' 24 8 ≠ 0 ∧ (0x00000053 : Word).extractLsb' 0 8 = (0x53 : Byte) ∧
    (0x00010000 : Word).extractLsb' 16 8 ≠ (0 : Byte) ∧
    ((0x00080043 : Word).extractLsb' 16 8).getLsbD 3 = true ∧
    4 ≤ ((0x00040050 : Word).extractLsb' 16 8).toNat ∧
    ((0x00004151 : Word).extractLsb' 8 8).toNat = 65 ∧
    decode 0x00004051 = .ok (.bfEnc 64) := by decide +kernel

/-- The ends of every reserved range of rule R96, each in PEND as a word of its own. -/
theorem test_wit_ReservedWordsRaiseBadCommand :
    ({ State.reset with pend := some 0x00000053 } : State).pend = some 0x00000053 ∧
    ((0x00000053 : Word).extractLsb' 0 8).toNat = 0x53 ∧
    (∀ op ∈ [0x02, 0x0F, 0x12, 0x1F, 0x24, 0x2F, 0x33, 0x3F, 0x45, 0x4F, 0x53, 0xFF],
      ((BitVec.ofNat 32 op).extractLsb' 0 8).toNat = op ∧
      decode (BitVec.ofNat 32 op) = .error .reservedOp) ∧
    (0x01000000 : Word).extractLsb' 24 8 ≠ 0 := by decide +kernel

theorem test_wit_StepRunsDecodedCommand :
    ({ inFlight with agenda := [.engine, .reset] } : State).pend = some 0x00001010 ∧
    decode 0x00001010 = .ok .bcKey ∧ Instr.bcKey.wellFormed = true ∧
    ({ inFlight with agenda := [.engine, .reset] } : State).agenda = .engine :: [.reset] ∧
    ({ inFlight with agenda := [] } : State).agenda = [] := by decide +kernel

theorem test_wit_FetchedWordRunsNext : decodeTableWord 32 0x00003F32 = some (.hFin 63) := by
  decide +kernel

theorem test_wit_AcceptedCommandCompletes :
    inFlight.pend = some 0x00001010 ∧
    (∀ e ∈ inFlight.agenda, ∃ a : Access, e = .access a ∧
      (a.inWindow = true → a.cached = false ∧ a.aligned = true)) := by
  refine ⟨rfl, ?_⟩
  intro e he
  simp only [inFlight, List.mem_cons, List.not_mem_nil, or_false] at he
  rcases he with rfl | rfl | rfl | rfl
  · exact ⟨_, rfl, fun _ => by decide⟩
  · exact ⟨_, rfl, fun _ => by decide⟩
  · exact ⟨_, rfl, fun _ => by decide⟩
  · exact ⟨_, rfl, fun h => absurd h (by decide)⟩

theorem test_wit_ErrorWritesOnlyErrcode :
    ({ State.reset with pend := some 0x00000002 } : State).pend.isSome = true ∧
    got ({ State.reset with pend := some 0x00000002 } : State).engineTurn (fun t => t.errcode) =
      some 1 := by decide +kernel

/-- The clauses of one flag each, at reset and with the key loaded and no stream. -/
theorem test_wit_StatePreconditionErrors :
    State.reset.ksv = false ∧ State.reset.hact = false ∧ State.reset.sqb = false ∧
    State.reset.sqv = false ∧ afterDrop.ksv = true ∧ afterDrop.ivv = false ∧
    Instr.ofbEncFin 15 ∈ (List.range 16).map Instr.ofbEncFin ∧
    Instr.hFin 63 ∈ (List.range 64).map Instr.hFin ∧
    Instr.psFeed 64 ∈ (List.range 65).map Instr.psFeed ∧
    Instr.bfDec 64 ∈ (List.range 65).map Instr.bfDec := by decide +kernel

theorem test_wit_SquareDataErrors :
    keyword.sqv = true ∧ 0x4A ∉ keyword.sq.toList ∧
    (∃ c ∈ ({ keyword with snap := Vector.replicate 64 0x4A } : State).snap.toList.take 64,
      c ∉ keyword.sq.toList) := by
  refine ⟨rfl, by decide +kernel, 0x4A, by decide +kernel, by decide +kernel⟩

theorem test_wit_BcEncTransformsOneBlock : opened.ksv = true := rfl

theorem test_wit_OfbBlkAdvancesTheChain : opened.ksv = true ∧ opened.ivv = true := ⟨rfl, rfl⟩

theorem test_wit_OfbEncFinPadsAndEndsTheStream :
    0 ≤ 15 ∧ 15 ≤ 15 ∧ opened.ksv = true ∧ opened.ivv = true := ⟨by decide, by decide, rfl, rfl⟩

/-- A schedule of zeros turns a block of zeros into zeros, so X is SNAP: p = 1, p = 16, and none. -/
def zeroStream (snap : List Byte) : State :=
  { State.reset with ksv := true, ivv := true, snap := vecOfList 64 0 snap }

theorem test_wit_OfbDecFinUnpadsOrRaisesPad :
    (zeroStream []).ksv = true ∧ (zeroStream []).ivv = true ∧
    (zeroStream []).keystream = List.replicate 16 0 ∧
    ((zeroStream (List.replicate 15 0 ++ [1])).snap.toList.take 16).drop (16 - 1) = List.replicate 1 1 ∧
    ((zeroStream (List.replicate 16 16)).snap.toList.take 16).drop (16 - 16) = List.replicate 16 16 ∧
    padValid (List.replicate 16 0) = false := by decide +kernel

theorem test_wit_OfbProcedures :
    opened.pend = none ∧ opened.ksv = true ∧ ivF0.length = 16 := ⟨rfl, rfl, rfl⟩

theorem test_wit_HBlkAbsorbsOneBlock : hashing.hact = true := rfl

theorem test_wit_HFinOutputsTheDigest :
    55 ≤ 63 ∧ 56 ≤ 63 ∧ 63 ≤ 63 ∧ hashing.hact = true := by decide

theorem test_wit_HashProcedureEqualsSource : State.reset.pend = none := rfl

theorem test_wit_PsFeedAddsNewLetters :
    building.EngineInv ∧ building.sqb = true ∧ 64 ≤ 64 := by decide +kernel

theorem test_wit_PsFinishCompletesTheSquare : building.EngineInv ∧ building.sqb = true := by
  decide +kernel

theorem test_wit_PsLookReadsTheCell : 4 < 5 ∧ 0 < 5 ∧ keyword.sqv = true := by decide

theorem test_wit_PsRlookInvertsTheSquare :
    4 < 5 ∧ 0 < 5 ∧ keyword.EngineInv ∧ keyword.sqv = true := by decide +kernel

theorem test_wit_SquareProcedureEqualsSource :
    State.reset.pend = none ∧ (∀ p ∈ [List.replicate 64 (0x41 : Byte), []], p.length ≤ 64) := by
  decide

theorem test_wit_BfFilterKeepsTheLetters : 64 ≤ 64 ∧ 0 ≤ 64 := by decide

/-- The "KEYWORD" square with 64 letters 'Z' to transform. -/
def keywordZ : State := { keyword with snap := Vector.replicate 64 0x5A }

theorem test_wit_BfEncAndBfDec :
    64 ≤ 64 ∧ keywordZ.sqv = true ∧ (∀ c ∈ keywordZ.snap.toList.take 64, c ∈ keywordZ.sq.toList) := by
  decide +kernel

theorem test_wit_BfDecInvertsBfEnc :
    keywordZ.EngineInv ∧ keywordZ.sqv = true ∧ 64 ≤ 64 ∧
    (∀ c ∈ keywordZ.snap.toList.take 64, c ∈ Config.alpha25) := by decide +kernel

/-- Both ends of the periods; the text is any one, and "AZ" has square letters only. -/
theorem test_wit_BifidTextRoundTrip :
    keyword.EngineInv ∧ keyword.pend = none ∧ keyword.sqv = true ∧ 1 ≤ 1 ∧ 64 ≤ 64 ∧
    (∀ c ∈ ([0x41, 0x5A] : List Byte), c ∈ Config.alpha25) :=
  ⟨by decide +kernel, rfl, rfl, by decide, by decide, by decide +kernel⟩

/-- Both ends of the window are inside, the addresses next to it outside, for every BASE above 0. -/
theorem test_wit_WindowIsBaseToBasePlus255 :
    (Config.base ≤ Config.base + 0xFC ∧ Config.base + 0xFC ≤ Config.base + 0xFF) ∧
    (Config.base + 0xFC - Config.base) % 4 = 0 ∧
    ¬ (Config.base ≤ Config.base + 0x100 ∧ Config.base + 0x100 ≤ Config.base + 0xFF) ∧
    (-1 : Int) < 0 ∧ (0xFF : Int) < 0x100 := by
  refine ⟨⟨by omega, by omega⟩, by omega, by omega, by omega, by omega⟩

theorem test_wit_CmdWriteAcceptedOrDropped :
    State.reset.pend = none ∧ inFlight.pend.isSome = true ∧
    inFlight.access { off := 0x100, size := 1, data := none, cached := false } = .next inFlight :=
  ⟨rfl, rfl, rfl⟩

theorem test_wit_OvrSetByDropClearedByNopOrReset :
    inFlight.pend.isSome = true ∧ State.reset.pend = none ∧
    (0x00000100 : Word).extractLsb' 0 8 = (0x00 : Byte) ∧
    got (inFlight.event (evWrite 0 0)) (fun t => t.ovr) = some (!inFlight.ovr) := by decide +kernel

theorem test_wit_DinIsHostWrittenBytes :
    15 < 16 ∧ exec .zeroize inFlight = .next (inFlight.zeroize.withErr .ok) ∧
    exec .nop inFlight = .next (inFlight.withErr .ok) := ⟨by decide, rfl, rfl⟩

/-- The ends of each range of offsets. -/
theorem test_wit_ReservedAndReadOnlyOffsets :
    0x10 % 4 = 0 ∧ 0x3C % 4 = 0 ∧ 0xC0 % 4 = 0 ∧ 0xFC % 4 = 0 ∧ 0x04 % 4 = 0 ∧ 0x0C % 4 = 0 ∧
    0x80 % 4 = 0 ∧ 0xBC % 4 = 0 := by decide

theorem test_wit_OnlyAlignedWordsAreServed :
    0xFC ≤ 0xFF ∧ (4 = 4 ∧ 0xFC % 4 = 0) ∧ ¬ (2 = 4 ∧ 0xFC % 4 = 0) ∧ ¬ (4 = 4 ∧ 0xFF % 4 = 0) := by
  decide

theorem test_wit_IdleReadsAreExact : keyword.pend = none ∧ 15 < 16 := by decide

theorem test_wit_BusyReadsKeepBusyAndOvr :
    inFlight.pend.isSome = true ∧ (0xFC ≤ 0xFF ∧ 0xFC % 4 = 0) ∧ (0 ≤ 0xFF ∧ 0 % 4 = 0) := by decide

/-- Two states with different secrets, both BUSY, read alike. -/
theorem test_wit_HostHasNoPathToInternalState :
    let s : State := { inFlight with mlen := 1, pend := some 0 }
    s.pend.isSome = inFlight.pend.isSome ∧
    s = { inFlight with
      sched := s.sched, civ := s.civ, h := s.h, mlen := s.mlen, sq := s.sq, sqn := s.sqn,
      seen := s.seen, snap := s.snap, pend := s.pend } ∧
    got (s.access { off := 0x40, size := 4, data := none, cached := false }) (fun t => t.rdata) =
      some (some 0) ∧
    got (inFlight.access { off := 0x40, size := 4, data := none, cached := false })
      (fun t => t.rdata) = some (some 0) := by decide +kernel

theorem test_wit_StepKeepsInvariants :
    ({ inFlight with agenda := [] } : State).EngineInv ∧
    ({ inFlight with agenda := [] } : State).WindowInv ∧
    got (step { inFlight with agenda := [] }) (fun t => t.ksv) = some true := by decide +kernel

theorem test_wit_CommandsWriteOnlyTheirUnit :
    exec .nop State.reset = .next (State.reset.withErr .ok) ∧ Instr.nop.opByte ≠ 0x01 ∧
    Instr.nop.opByte ≠ 0x10 ∧
    Instr.nop.opByte ∉ ([0x11, 0x21, 0x22, 0x23, 0x32, 0x50, 0x51, 0x52] : List Byte) :=
  ⟨rfl, by decide, by decide, by decide⟩

end Sys2Proof.Tests
end

section
/-! PROOFS. What the host's accesses do to the window's registers (10_state.md section 2), what commands
and the host leave to each other, and the statements O43, O44, O45 and O50 of 10_state.md. -/

namespace Sys2Proof.Machine

variable {s t : State}

/-! ### Host accesses by offset -/

/-- `WR` at an aligned offset of the window is served (rules R68, R99). -/
theorem State.event_evWrite (s : State) {off : Nat} (v : Word) (hwin : off ≤ 0xFF)
    (hal : off % 4 = 0) : s.event (evWrite off v) = .next (s.serveWrite off v) :=
  State.access_served (by simp [Access.inWindow]; omega) rfl (by simp [Access.aligned]; omega)

/-- `RD` at an aligned offset of the window is served (rules R68, R99). -/
theorem State.event_evRead (s : State) {off : Nat} (hwin : off ≤ 0xFF) (hal : off % 4 = 0) :
    s.event (evRead off) = .next (s.serveRead off) :=
  State.access_served (by simp [Access.inWindow]; omega) rfl (by simp [Access.aligned]; omega)

theorem State.serveRead_block (s : State) (off : Nat) :
    (s.serveRead off).block = s.block := rfl

theorem State.serveWrite_block (s : State) (off : Nat) (v : Word) :
    (s.serveWrite off v).block = (s.writeReg off v).block := rfl

@[simp] theorem State.serveWrite_ovr (s : State) (off : Nat) (v : Word) :
    (s.serveWrite off v).ovr = (s.writeReg off v).ovr := rfl

/-- BUSY is PEND not empty (rule R35). -/
theorem State.busy_eq_false_iff : s.busy = false ↔ s.pend = none := by simp [State.busy]

/-- A CMD write while BUSY sets OVR and no more (rule R36). -/
theorem State.writeReg_cmd_busy (v : Word) (h : s.busy = true) :
    s.writeReg 0x00 v = { s with ovr := true } := by
  simp [State.writeReg, offCmd, State.writeCmd, h]

/-- An accepted CMD write clears OVR when its OP is 0x00 (rule R36). -/
theorem State.writeReg_nop_idle_ovr {v : Word} (h : s.busy = false) (hop : opField v = 0) :
    (s.writeReg 0x00 v).ovr = false := by
  simp [State.writeReg, offCmd, State.writeCmd, h, hop]

/-- A write at an offset that is neither CMD nor in DIN is ignored (rule R30). -/
theorem State.writeReg_ignored (s : State) {off : Nat} (v : Word) (hcmd : off ≠ offCmd)
    (hdin : isDin off = false) : s.writeReg off v = s := by
  simp [State.writeReg, hcmd, hdin]

/-- A write that is ignored is served all the same and changes nothing of the block (rule R30). -/
theorem State.event_evWrite_ignored (s : State) {off : Nat} (v : Word) (hwin : off ≤ 0xFF)
    (hal : off % 4 = 0) (hcmd : off ≠ offCmd) (hdin : isDin off = false) :
    ∃ t, s.event (evWrite off v) = .next t ∧ t.block = s.block :=
  ⟨_, s.event_evWrite v hwin hal, by rw [State.serveWrite_block, s.writeReg_ignored v hcmd hdin]⟩

/-- Past CMD, STATUS, OUTLEN and RESULT and outside DOUT, a read at any time returns a DIN word or 0
(rules R27, R30, R44). -/
theorem State.readData_din_or_reserved (s : State) {off : Nat} (hlow : 0x10 ≤ off)
    (hdout : isDout off = false) :
    s.readData off =
      if isDin off then leWord s.din.toList ((off - offDin) / 4) else 0 := by
  have hcmd : off ≠ offCmd := by unfold offCmd; omega
  have hst : off ≠ offStatus := by unfold offStatus; omega
  have hol : off ≠ offOutlen := by unfold offOutlen; omega
  have hre : off ≠ offResult := by unfold offResult; omega
  simp [State.readData, State.regAt, hcmd, hst, hol, hre, hdout]

/-! ### DIN -/

/-- Byte m of `LE32(v)` is `v[8m+7:8m]` (rule R14). -/
theorem leBytes_getD (v : Word) {m : Nat} (h : m < 4) :
    (leBytes v).getD m 0 = v.extractLsb' (8 * m) 8 := by
  interval_cases m <;> rfl

theorem byteAt_toList {n : Nat} (v : Vector Byte n) {i : Nat} (h : i < n) :
    byteAt v.toList i = v[i] := by
  simp [byteAt, h]

/-- A served write at the offset of DIN[k] writes DIN[k] (rule R27). -/
theorem State.writeReg_din (s : State) {k : Nat} (v : Word) (hk : k < 16) :
    s.writeReg (0x40 + 4 * k) v = s.writeDin k v := by
  have hcmd : 0x40 + 4 * k ≠ offCmd := by unfold offCmd; omega
  have hdin : isDin (0x40 + 4 * k) = true := by simp [isDin]; omega
  have hidx : (0x40 + 4 * k - offDin) / 4 = k := by unfold offDin; omega
  simp only [State.writeReg, hcmd, hdin, hidx, if_true, if_false]

/-- A read of DIN[k] is exact at any time (rules R27, R44). -/
theorem State.readData_din (s : State) {k : Nat} (hk : k < 16) :
    s.readData (0x40 + 4 * k) = leWord s.din.toList k := by
  have hdin : isDin (0x40 + 4 * k) = true := by simp [isDin]; omega
  have hdout : isDout (0x40 + 4 * k) = false := by simp [isDout]; omega
  have hidx : (0x40 + 4 * k - offDin) / 4 = k := by unfold offDin; omega
  rw [s.readData_din_or_reserved (by omega) hdout, if_pos hdin, hidx]

/-- Word k of a buffer is its four bytes, the low byte first (rules R14, R63). -/
theorem leWord_toList {n : Nat} (v : Vector Byte n) {k : Nat} (h : 4 * k + 3 < n) :
    leWord v.toList k = v[4 * k + 3] ++ v[4 * k + 2] ++ v[4 * k + 1] ++ v[4 * k] := by
  rw [leWord, le32_eq_append, byteAt_toList v h, byteAt_toList v (i := 4 * k + 2) (by omega),
    byteAt_toList v (i := 4 * k + 1) (by omega), byteAt_toList v (i := 4 * k) (by omega)]

/-- A DIN[k] write puts byte m of the word at 4k + m (rule R27). -/
theorem State.writeDin_getD_inside (s : State) {k m : Nat} (v : Word) (hk : k < 16) (hm : m < 4) :
    (s.writeDin k v).din.toList.getD (4 * k + m) 0 = v.extractLsb' (8 * m) 8 := by
  have hlt : 4 * k + m < 64 := by omega
  have hin : 4 * k ≤ 4 * k + m ∧ 4 * k + m < 4 * k + (leBytes v).length :=
    ⟨by omega, by rw [leBytes_length]; omega⟩
  calc (s.writeDin k v).din.toList.getD (4 * k + m) 0
      = (setBytes s.din (4 * k) (leBytes v))[4 * k + m] := byteAt_toList _ hlt
    _ = (leBytes v).getD m 0 := by
        rw [setBytes_getElem, if_pos hin, Nat.add_sub_cancel_left]
    _ = v.extractLsb' (8 * m) 8 := leBytes_getD v hm

/-- A DIN[k] write leaves the other bytes of DIN as they are (rule R27). -/
theorem State.writeDin_getElem_outside (s : State) {k j : Nat} (v : Word) (h : j < 64)
    (hout : j < 4 * k ∨ 4 * k + 4 ≤ j) : (s.writeDin k v).din[j] = s.din[j] := by
  have hnot : ¬ (4 * k ≤ j ∧ j < 4 * k + (leBytes v).length) := by
    rw [leBytes_length]; omega
  simp only [State.writeDin_din, setBytes_getElem, if_neg hnot]

/-! ### What commands and the host leave to each other -/

/-- `s` with the fields of `u` that belong to the host's side: what no command but ZEROIZE reads or
writes. SNAP is not among them: commands read it. -/
def State.withHostSide (s u : State) : State :=
  { s with
    cmd := u.cmd, ovr := u.ovr, din := u.din, pend := u.pend
    agenda := u.agenda, rdata := u.rdata, draws := u.draws }

/-- An update of the next state a result answers, if it answers one. -/
def mapNext (f : State → State) : Result → Result
  | .next s => .next (f s)
  | .fault r => .fault r
  | .refused r => .refused r

@[simp] theorem State.withHostSide_self (s : State) : s.withHostSide s = s := rfl

/-- A check does not see the host's side when its continuation does not. -/
theorem State.require_withHostSide {s u : State} {c : Bool} {e : ErrCode} {k k' : Result}
    (hk : k' = mapNext (·.withHostSide u) k) :
    (s.withHostSide u).require c e k' = mapNext (·.withHostSide u) (s.require c e k) := by
  cases c with
  | true => exact hk
  | false => rfl

/-- PS_FINISH's success does not see the host's side. Said of any square `q`, so that the letters of
ALPHA25 are not placed one by one to check it. -/
theorem State.finishBuild_withHostSide (s u : State) (q : Square) :
    ({ (s.withHostSide u).setSquare q with sqb := false, sqv := true } : State).succeed =
      mapNext (·.withHostSide u)
        ({ s.setSquare q with sqb := false, sqv := true } : State).succeed := rfl

/-- No command but ZEROIZE reads or writes the host's side: exchanging it before the command is
exchanging it after. The commands are grouped by the number of their checks (rule R16). -/
theorem exec_withHostSide {i : Instr} (hi : i ≠ .zeroize) (s u : State) :
    exec i (s.withHostSide u) = mapNext (·.withHostSide u) (exec i s) := by
  cases i with
  | zeroize => exact absurd rfl hi
  | nop | bcKey | ofbIv | hInit | psStart => rfl
  | bcEnc | hBlk | bfFilter => exact State.require_withHostSide rfl
  | psFinish => exact State.require_withHostSide (State.finishBuild_withHostSide s u s.square.fill)
  | ofbBlk | hFin | psFeed | psLook | psRlook =>
    exact State.require_withHostSide (State.require_withHostSide rfl)
  | ofbEncFin | ofbDecFin | bfEnc | bfDec =>
    exact State.require_withHostSide
      (State.require_withHostSide (State.require_withHostSide rfl))

theorem exec_zeroize (s : State) : exec .zeroize s = .next (s.zeroize.withErr .ok) := rfl

/-- A command but ZEROIZE, run with another host's side, answers the same with that host's side. -/
theorem exec_withHostSide_eq_next {i : Instr} (hi : i ≠ .zeroize) (h : exec i s = .next t)
    (u : State) : exec i (s.withHostSide u) = .next (t.withHostSide u) := by
  rw [exec_withHostSide hi, h]; rfl

/-- A command but ZEROIZE leaves the host's side as it was. -/
theorem exec_keeps_hostSide {i : Instr} (hi : i ≠ .zeroize) (h : exec i s = .next t) :
    t = t.withHostSide s := by
  have hs := exec_withHostSide_eq_next hi h s
  rw [State.withHostSide_self, h] at hs
  exact Host.Outcome.next.inj hs

/-- DIN after a command is empty for ZEROIZE and as it was for the others (rule R27). -/
theorem exec_din {i : Instr} (h : exec i s = .next t) :
    t.din = if i = .zeroize then Vector.replicate 64 0 else s.din := by
  by_cases hi : i = .zeroize
  · subst hi
    obtain rfl := Host.Outcome.next.inj h
    rfl
  · rw [if_neg hi]
    exact (congrArg State.din (exec_keeps_hostSide hi h)).trans rfl

/-- What a command does is the same whatever DIN holds (rule R27). -/
theorem exec_with_din {i : Instr} (h : exec i s = .next t) (d : Vector Byte 64) :
    exec i { s with din := d } = .next (if i = .zeroize then t else { t with din := d }) := by
  by_cases hi : i = .zeroize
  · subst hi
    exact h
  · rw [if_neg hi]
    have ht : t.withHostSide { s with din := d } = { t with din := d } :=
      congrArg (fun x => { x with din := d }) (exec_keeps_hostSide hi h).symm
    exact (exec_withHostSide_eq_next hi h { s with din := d }).trans (congrArg _ ht)

/-- No command writes OVR (rule R36). -/
theorem exec_ovr {i : Instr} (h : exec i s = .next t) : t.ovr = s.ovr := by
  by_cases hi : i = .zeroize
  · subst hi
    obtain rfl := Host.Outcome.next.inj h
    rfl
  · exact (congrArg State.ovr (exec_keeps_hostSide hi h)).trans rfl

/-- The engine never writes OVR, whether its word decodes or not (rule R36). -/
theorem State.engineTurn_ovr (h : s.engineTurn = .next t) : t.ovr = s.ovr := by
  obtain ⟨-, rfl⟩ | ⟨v, u, -, hu, rfl⟩ := State.engineTurn_eq_next h
  · rfl
  · obtain ⟨e, -, he⟩ | ⟨i, -, hi⟩ := s.execWord_cases v
    · obtain rfl := Host.Outcome.next.inj (he.symm.trans hu)
      rfl
    · exact (State.retire_ovr u).trans (exec_ovr (hi.symm.trans hu))

/-! ### OVR -/

/-- A served write that changes OVR is at CMD, and is dropped or has OP 0x00 (rule R36). -/
theorem State.writeReg_ovr_ne {off : Nat} {v : Word} (h : (s.writeReg off v).ovr ≠ s.ovr) :
    off = offCmd ∧ (s.busy = true ∨ (s.busy = false ∧ opField v = 0)) := by
  obtain ⟨hoff, hb, -⟩ | ⟨hoff, hb, hw⟩ | ⟨-, -, hw⟩ | ⟨-, -, hw⟩ := s.writeReg_cases off v
  · exact ⟨hoff, .inl hb⟩
  · refine ⟨hoff, .inr ⟨hb, ?_⟩⟩
    by_contra hop
    exact h (by rw [hw]; exact if_neg hop)
  · exact absurd (congrArg State.ovr hw) h
  · exact absurd (congrArg State.ovr hw) h

/-- An aligned uncached write at the window's first offset is the `WR` of CMD. -/
theorem Access.eq_cmdWrite {a : Access} {v : Word} (hw : a.inWindow = true)
    (hc : a.cached = false) (ha : a.aligned = true) (hd : a.data = some v)
    (hoff : a.off.toNat = offCmd) : Event.access a = evWrite 0x00 v := by
  obtain ⟨off, size, data, cached⟩ := a
  simp only [Access.inWindow, Access.aligned, Bool.and_eq_true, decide_eq_true_eq] at hw ha hoff
  obtain rfl : off = 0 := by unfold offCmd at hoff; omega
  obtain rfl := ha.1
  subst hc hd
  rfl

/-- An access that changes OVR is a CMD write, dropped or with OP 0x00 (rule R36). -/
theorem State.access_ovr_ne {a : Access} (h : s.access a = .next t) (hne : t.ovr ≠ s.ovr) :
    ∃ v, Event.access a = evWrite 0x00 v ∧
      (s.busy = true ∨ (s.busy = false ∧ opField v = 0)) := by
  obtain ⟨-, rfl⟩ | ⟨-, -, -, -, rfl⟩ | ⟨hw, hc, ha, v, hd, rfl⟩ := State.access_eq_next h
  · exact absurd rfl hne
  · exact absurd rfl hne
  · obtain ⟨hoff, hcase⟩ := State.writeReg_ovr_ne hne
    exact ⟨v, Access.eq_cmdWrite hw hc ha hd hoff, hcase⟩

/-! ### The statements -/

/-- Settles O43: the two writes and reset by the rules of a CMD write, and every other event by cases of
the event. -/
theorem ovrSetByDropClearedByNopOrReset : Obligations.OvrSetByDropClearedByNopOrReset := by
  refine ⟨fun s v hp => ?_, fun s v hp hop => ?_, fun s => ⟨s.hwReset, rfl, rfl⟩,
    fun s t e h hne => ?_⟩
  · refine ⟨_, s.event_evWrite v (by decide) rfl, ?_⟩
    rw [State.serveWrite_block, State.writeReg_cmd_busy v hp]
  · refine ⟨_, s.event_evWrite v (by decide) rfl, ?_⟩
    rw [State.serveWrite_ovr, State.writeReg_nop_idle_ovr (State.busy_eq_false_iff.mpr hp) hop]
  · cases e with
    | reset => exact .inl rfl
    | engine => exact absurd (State.engineTurn_ovr h) hne
    | access a =>
      obtain ⟨v, ha, hcase⟩ := State.access_ovr_ne h hne
      exact .inr ⟨v, ha, hcase.imp_right (And.imp_left State.busy_eq_false_iff.mp)⟩

/-- Settles O44: the write and the read by the rules of DIN, the commands by their not seeing the host's
side. -/
theorem dinIsHostWrittenBytes : Obligations.DinIsHostWrittenBytes := by
  refine ⟨fun s k v hk => ?_, fun s k hk => ?_, fun i s t h => ⟨exec_din h, exec_with_din h⟩⟩
  · refine ⟨_, s.event_evWrite v (by omega) (by omega), ?_⟩
    rw [State.serveWrite, s.writeReg_din v hk]
    exact ⟨rfl, fun m hm => s.writeDin_getD_inside v hk hm,
      fun j hj hout => s.writeDin_getElem_outside v hj hout⟩
  · refine ⟨_, s.event_evRead (by omega) (by omega), s.serveRead_block _, ?_⟩
    rw [State.serveRead_rdata, s.readData_din hk, leWord_toList s.din (by omega)]

/-- Settles O45: none of the offsets is CMD or in DIN, and the reserved ones are not in DOUT either. -/
theorem reservedAndReadOnlyOffsets : Obligations.ReservedAndReadOnlyOffsets := by
  refine ⟨fun s off hal hoff => ?_, fun s off v hal hoff => ?_⟩
  · have hcmd : off ≠ offCmd := by unfold offCmd; omega
    have hdin : isDin off = false := by simp [isDin]; omega
    have hdout : isDout off = false := by simp [isDout]; omega
    refine ⟨⟨_, s.event_evRead (by omega) hal, s.serveRead_block off, ?_⟩,
      fun v => s.event_evWrite_ignored v (by omega) hal hcmd hdin⟩
    rw [State.serveRead_rdata, s.readData_din_or_reserved (by omega) hdout, hdin]
    rfl
  · exact s.event_evWrite_ignored v (by omega) hal (by unfold offCmd; omega)
      (by simp [isDin]; omega)

/-- Settles O50: the registers and flags by evaluation, each array by its being filled with one value. -/
theorem resetValues : Obligations.ResetValues := by
  refine ⟨rfl, rfl, rfl, rfl, rfl, rfl, rfl, rfl, rfl, rfl, rfl, rfl, fun i h => ?_, fun i h => ?_,
    fun i h => ?_, fun i h => ?_, rfl, fun i h => ?_, rfl, rfl⟩
  · exact ⟨Vector.getElem_replicate h, Vector.getElem_replicate h, Vector.getElem_replicate h⟩
  · exact Vector.getElem_replicate h
  · exact Vector.getElem_replicate h
  · exact Vector.getElem_replicate h
  · exact ⟨Vector.getElem_replicate h, Vector.getElem_replicate h⟩

end Sys2Proof.Machine
end

section
/-! PROOFS. Which accesses of the window are served, what a CMD write does with PEND empty and with PEND
filled, and the statements O42 and O46 of 20_memory.md. -/

namespace Sys2Proof.Machine

variable {s t : State}

/-! ### The shape of an access -/

/-- A 32-bit access at `BASE + off` arrives with the offset `off`, for every value of `BASE`
(rule R60). -/
theorem accessAt_base_add (off : Nat) (data : Option Word) :
    accessAt (Config.base + off) data =
      { off := off, size := 4, data := data, cached := false } := by
  simp [accessAt]

/-- The shape the block serves, for an offset that is not below the window (rule R68). -/
theorem Access.aligned_natCast_iff {off size : Nat} {data : Option Word} {cached : Bool} :
    ({ off := off, size := size, data := data, cached := cached } : Access).aligned = true ↔
      size = 4 ∧ off % 4 = 0 := by
  simp only [Access.aligned, Bool.and_eq_true, decide_eq_true_eq]
  omega

/-- An uncached access of the window in any other shape is the bus error (rule R68). -/
theorem State.access_busError {a : Access} (hw : a.inWindow = true) (hc : a.cached = false)
    (ha : a.aligned = false) : s.access a = .fault .busError := by
  simp [State.access, hw, hc, ha]

/-! ### CMD writes and PEND -/

/-- The host's `WR` at `BASE` is the write of CMD (rules R22, R60). -/
theorem State.access_cmdWrite (s : State) (v : Word) :
    s.access (accessAt Config.base (some v)) = .next (s.serveWrite offCmd v) := by
  have hcmd := accessAt_base_add 0 (some v)
  rw [Nat.add_zero] at hcmd
  rw [hcmd]
  exact s.event_evWrite v (by decide) rfl

/-- A CMD write with PEND empty is accepted whole (rule R66). -/
theorem State.writeReg_cmd_idle (v : Word) (h : s.busy = false) :
    s.writeReg offCmd v =
      { s with
        cmd := v, pend := some v, snap := s.din, ovr := if opField v = 0 then false else s.ovr } := by
  simp [State.writeReg, State.writeCmd, h]

/-- With PEND filled no write changes it: a CMD write is dropped, and no other write reaches PEND
(rule R66). -/
theorem State.writeReg_pend_of_busy (off : Nat) (v : Word) (h : s.busy = true) :
    (s.writeReg off v).pend = s.pend := by
  obtain ⟨-, -, hdropped⟩ | ⟨-, hidle, -⟩ | ⟨-, -, hdin⟩ | ⟨-, -, hignored⟩ := s.writeReg_cases off v
  · rw [hdropped]
  · exact absurd h (by simp [hidle])
  · rw [hdin, State.writeDin_pend]
  · rw [hignored]

/-- With PEND filled no access changes it (rule R66). -/
theorem State.access_pend_of_busy {a : Access} (hb : s.busy = true) (h : s.access a = .next t) :
    t.pend = s.pend := by
  obtain ⟨-, rfl⟩ | ⟨-, -, -, -, rfl⟩ | ⟨-, -, -, v, -, rfl⟩ := State.access_eq_next h
  · rfl
  · exact s.serveRead_pend _
  · exact s.writeReg_pend_of_busy _ v hb

/-! ### BUSY in STATUS -/

/-- While BUSY a STATUS read returns the busy form of STATUS (rule R44). -/
theorem State.readData_status_busy (h : s.busy = true) :
    s.readData offStatus = s.statusBusy (Config.busyDraw s.draws) := by
  simp [State.readData, h]

/-- Bit 0 of the busy form is 1, whatever the free draw is (rules R24, R44). -/
theorem State.statusBusy_getLsbD_zero (s : State) (d : Word) :
    (s.statusBusy d).getLsbD 0 = true := by
  simp [State.statusBusy, flagBit]

/-! ### The statements -/

/-- Settles O42: the CMD write by what it does with PEND empty and filled, the STATUS read by the busy
form's bit 0, and the frame on PEND by cases of what an access can do. -/
theorem cmdWriteAcceptedOrDropped : Obligations.CmdWriteAcceptedOrDropped := by
  refine fun s v => ⟨fun hp => ?_, fun hp => ⟨?_, ?_, fun a u h => State.access_pend_of_busy hp h⟩⟩
  · refine ⟨_, s.access_cmdWrite v, ?_⟩
    rw [State.serveWrite_block, State.writeReg_cmd_idle v (State.busy_eq_false_iff.mpr hp)]
    rfl
  · refine ⟨_, s.access_cmdWrite v, ?_⟩
    rw [State.serveWrite_block]
    exact congrArg State.block (State.writeReg_cmd_busy v hp)
  · refine ⟨s.serveRead offStatus, _, ?_, s.serveRead_rdata offStatus, ?_⟩
    · rw [accessAt_base_add]
      exact s.event_evRead (by decide) rfl
    · rw [State.readData_status_busy hp]
      exact s.statusBusy_getLsbD_zero _

/-- Settles O46: the access is uncached and in the window, so that its shape alone decides. -/
theorem onlyAlignedWordsAreServed : Obligations.OnlyAlignedWordsAreServed := by
  intro s off size data hoff a
  have hwin : a.inWindow = true := by simp [a, Access.inWindow]; omega
  refine ⟨fun hshape => ?_, fun hshape => ?_⟩
  · exact ⟨_, State.access_served hwin rfl (Access.aligned_natCast_iff.mpr hshape)⟩
  · have hmis : a.aligned = false :=
      Bool.eq_false_iff.mpr fun h => hshape (Access.aligned_natCast_iff.mp h)
    exact State.access_busError hwin rfl hmis

end Sys2Proof.Machine
end

section
/-! PROOFS. What `decode` answers, one lemma per check of rule R98 and one for the words that pass; what
the rows of rule R95 say of ARG, LEN and the bytes of their commands; and the statements O3 and O6 of
30_encoding.md. -/

namespace Sys2Proof

variable {v : Word} {r : CmdRow}

/-! ### The decoder, check by check -/

/-- No two rows of rule R95 have one opcode. -/
theorem cmdRows_op_nodup : (cmdRows.map CmdRow.op).Nodup := by decide

/-- The decoder's search finds the row that has the word's opcode. -/
theorem cmdRows_find?_op (hr : r ∈ cmdRows) : cmdRows.find? (fun q => q.op == r.op) = some r := by
  cases h : cmdRows.find? (fun q => q.op == r.op) with
  | none => exact absurd (List.find?_eq_none.mp h r hr) (by simp)
  | some q =>
    have hop : q.op = r.op := by simpa using List.find?_some h
    rw [List.inj_on_of_nodup_map cmdRows_op_nodup (List.mem_of_find?_eq_some h) hr hop]

/-- RSVD is checked first (rules R94, R98). -/
theorem decode_rsvd (h : rsvdField v ≠ 0) : decode v = .error .rsvd := if_pos h

/-- An OP without a row is reserved (rules R96, R98). -/
theorem decode_reservedOp (hrsvd : rsvdField v = 0) (h : opField v ∉ cmdRows.map CmdRow.op) :
    decode v = .error .reservedOp := by
  have hnone : cmdRows.find? (fun q => q.op == opField v) = none :=
    List.find?_eq_none.mpr fun q hq hop => h (List.mem_map.mpr ⟨q, hq, by simpa using hop⟩)
  simp [decode, hrsvd, hnone]

/-- Where RSVD is 0 and OP has a row, that row's form and LEN range decide (rule R98). -/
theorem decode_of_row (hrsvd : rsvdField v = 0) (hr : r ∈ cmdRows) (hop : r.op = opField v) :
    decode v =
      if r.form.accepts (argField v) = false then .error .argForm
      else if (lenField v).toNat < r.lenMin ∨ r.lenMax < (lenField v).toNat then .error .badLen
      else .ok (r.make (lenField v).toNat (argField v)) := by
  simp [decode, hrsvd, ← hop, cmdRows_find?_op hr]

/-- ARG is checked against the row's form before LEN (rules R93, R98). -/
theorem decode_argForm (hrsvd : rsvdField v = 0) (hr : r ∈ cmdRows) (hop : r.op = opField v)
    (harg : r.form.accepts (argField v) = false) : decode v = .error .argForm :=
  (decode_of_row hrsvd hr hop).trans (if_pos harg)

/-- LEN is checked last (rules R92, R98). -/
theorem decode_badLen (hrsvd : rsvdField v = 0) (hr : r ∈ cmdRows) (hop : r.op = opField v)
    (harg : r.form.accepts (argField v) = true)
    (hlen : (lenField v).toNat < r.lenMin ∨ r.lenMax < (lenField v).toNat) :
    decode v = .error .badLen := by
  simp [decode_of_row hrsvd hr hop, harg, hlen]

/-- A word that passes every check decodes to the command its row makes (rule R98). -/
theorem decode_make (hrsvd : rsvdField v = 0) (hr : r ∈ cmdRows) (hop : r.op = opField v)
    (harg : r.form.accepts (argField v) = true) (hmin : r.lenMin ≤ (lenField v).toNat)
    (hmax : (lenField v).toNat ≤ r.lenMax) :
    decode v = .ok (r.make (lenField v).toNat (argField v)) := by
  simp [decode_of_row hrsvd hr hop, harg, hmin, hmax]

/-! ### The rows of rule R95 -/

/-- FLAGS leaves the six high bits of ARG 0, so that ARG is below 4 (rule R93). -/
theorem extractLsb'_two_six_eq_zero_iff (arg : Byte) :
    arg.extractLsb' 2 6 = 0 ↔ arg.toNat < 4 := by
  rw [← BitVec.toNat_inj, BitVec.extractLsb'_toNat, Nat.shiftRight_eq_div_pow]
  have := arg.isLt
  simp
  omega

/-- What each form refuses (rule R93). -/
theorem ArgForm.accepts_eq_false_iff (f : ArgForm) (arg : Byte) :
    f.accepts arg = false ↔
      (f = .zero ∧ arg ≠ 0) ∨ (f = .coord ∧ (arg.getLsbD 7 = true ∨ arg.getLsbD 3 = true)) ∨
      (f = .flags ∧ 4 ≤ arg.toNat) := by
  cases f with
  | zero => simp [ArgForm.accepts]
  | coord => simp [ArgForm.accepts, imp_iff_not_or]
  | char => simp [ArgForm.accepts]
  | flags =>
    simp [ArgForm.accepts, ← not_lt, ← extractLsb'_two_six_eq_zero_iff]

/-- The form of each opcode (rule R95). -/
theorem cmdRows_form_iff : ∀ r ∈ cmdRows,
    (r.form = .zero ↔ r.op ∉ ([0x43, 0x44, 0x50] : List Byte)) ∧
    (r.form = .coord ↔ r.op = 0x43) ∧ (r.form = .flags ↔ r.op = 0x50) := by
  decide

/-- What each opcode refuses in ARG (rules R93, R95). -/
theorem cmdRows_badArg_iff (hr : r ∈ cmdRows) (arg : Byte) :
    r.form.accepts arg = false ↔
      (r.op ∉ ([0x43, 0x44, 0x50] : List Byte) ∧ arg ≠ 0) ∨
      (r.op = 0x43 ∧ (arg.getLsbD 7 = true ∨ arg.getLsbD 3 = true)) ∨
      (r.op = 0x50 ∧ 4 ≤ arg.toNat) := by
  obtain ⟨hzero, hcoord, hflags⟩ := cmdRows_form_iff r hr
  rw [r.form.accepts_eq_false_iff, hzero, hcoord, hflags]

/-- The LEN values each opcode refuses (rules R92, R95). -/
theorem cmdRows_badLen_iff (hr : r ∈ cmdRows) (len : Nat) :
    len < r.lenMin ∨ r.lenMax < len ↔
      (r.op ∈ ([0x00, 0x01, 0x30, 0x40, 0x42, 0x43, 0x44] : List Byte) ∧ len ≠ 0) ∨
      (r.op ∈ ([0x10, 0x11, 0x20, 0x21, 0x23] : List Byte) ∧ len ≠ 16) ∨
      (r.op = 0x22 ∧ 15 < len) ∨ (r.op = 0x31 ∧ len ≠ 64) ∨ (r.op = 0x32 ∧ 63 < len) ∨
      (r.op ∈ ([0x41, 0x50, 0x51, 0x52] : List Byte) ∧ 64 < len) := by
  fin_cases hr <;> simp <;> omega

/-- No opcode of rule R95 lies in a reserved range of rule R96. -/
theorem cmdRows_op_not_reserved : ∀ op ∈ cmdRows.map CmdRow.op,
    ¬ ((0x02 ≤ op.toNat ∧ op.toNat ≤ 0x0F) ∨ (0x12 ≤ op.toNat ∧ op.toNat ≤ 0x1F) ∨
      (0x24 ≤ op.toNat ∧ op.toNat ≤ 0x2F) ∨ (0x33 ≤ op.toNat ∧ op.toNat ≤ 0x3F) ∨
      (0x45 ≤ op.toNat ∧ op.toNat ≤ 0x4F) ∨ (0x53 ≤ op.toNat ∧ op.toNat ≤ 0xFF)) := by
  decide

/-! ### The bytes of a decoded command -/

/-- An accepted COORD argument is its row and column put together again (rule R93). -/
theorem psLook_argByte {arg : Byte} (h : ArgForm.coord.accepts arg = true) :
    (Instr.psLook (coordRow arg) (coordCol arg)).argByte = arg := by
  obtain ⟨h7, h3⟩ : arg.getLsbD 7 = false ∧ arg.getLsbD 3 = false := by
    simpa [ArgForm.accepts] using h
  refine BitVec.eq_of_getLsbD_eq fun i hi => ?_
  simp only [Instr.argByte, coordRow, coordCol, BitVec.ofNat_toNat, BitVec.getLsbD_or,
    BitVec.getLsbD_shiftLeft, BitVec.getLsbD_setWidth, BitVec.getLsbD_extractLsb']
  interval_cases i <;> simp_all [BitVec.getLsbD_eq_getElem]

/-- An accepted FLAGS argument is its two flags put together again (rule R93). -/
theorem bfFilter_argByte {arg : Byte} (len : Nat) (h : ArgForm.flags.accepts arg = true) :
    (Instr.bfFilter len (arg.getLsbD 0) (arg.getLsbD 1)).argByte = arg := by
  have hlt : arg.toNat < 4 :=
    (extractLsb'_two_six_eq_zero_iff arg).mp (by simpa [ArgForm.accepts] using h)
  obtain ⟨n, hn, rfl⟩ : ∃ n < 4, arg = BitVec.ofNat 8 n := ⟨arg.toNat, hlt, by simp⟩
  interval_cases n <;> rfl

/-- The command a row makes has the row's opcode. -/
theorem cmdRows_make_opByte (hr : r ∈ cmdRows) (len : Nat) (arg : Byte) :
    (r.make len arg).opByte = r.op := by
  fin_cases hr <;> rfl

/-- The command a row makes of a legal LEN has that LEN: a fixed one is the row's only legal value. -/
theorem cmdRows_make_lenByte (hr : r ∈ cmdRows) {len : Nat} (arg : Byte) (hmin : r.lenMin ≤ len)
    (hmax : len ≤ r.lenMax) : (r.make len arg).lenByte.toNat = len := by
  fin_cases hr <;> simp [Instr.lenByte] at hmin hmax ⊢ <;> omega

/-- The command a row makes of an ARG its form accepts has that ARG: PS_LOOK, PS_RLOOK and BF_FILTER
keep it, and every other row asks for 0. -/
theorem cmdRows_make_argByte (hr : r ∈ cmdRows) (len : Nat) {arg : Byte}
    (harg : r.form.accepts arg = true) : (r.make len arg).argByte = arg := by
  fin_cases hr
  any_goals exact (beq_iff_eq.mp harg).symm
  · exact psLook_argByte harg
  · rfl
  · exact bfFilter_argByte len harg

end Sys2Proof

namespace Sys2Proof.Machine

variable {s : State} {v : Word}

/-! ### Executing a word -/

/-- A word that fails a decode check only writes that check's code to ERRCODE (rules R98, R281). -/
theorem State.execWord_of_error {e : DecodeError} (h : decode v = .error e) :
    s.execWord v = .next (s.withErr (decodeErrCode e)) := by
  simp [State.execWord, h, State.raise]

/-- A word that decodes runs its command (rule R98). -/
theorem State.execWord_of_ok {i : Instr} (h : decode v = .ok i) : s.execWord v = exec i s := by
  simp [State.execWord, h]

/-- A word with an RSVD bit set or an OP without a row only raises E_BADCMD (rules R94, R96). -/
theorem State.execWord_reserved (s : State)
    (h : rsvdField v ≠ 0 ∨ opField v ∉ cmdRows.map CmdRow.op) :
    s.execWord v = .next (s.withErr .badCmd) := by
  by_cases hrsvd : rsvdField v = 0
  · exact State.execWord_of_error (decode_reservedOp hrsvd (h.resolve_left (not_not.mpr hrsvd)))
  · exact State.execWord_of_error (decode_rsvd hrsvd)

/-! ### The statements -/

/-- Settles O3: RSVD and OP by the lemma on reserved words; past them the word has a row, whose form
and LEN range are read off the table. -/
theorem decodeChecksRunInOrder : Obligations.DecodeChecksRunInOrder := by
  intro s v op len arg badCmd badLen
  split
  next hrsvd => exact s.execWord_reserved (.inl hrsvd)
  next hrsvd =>
  split
  next hop => exact s.execWord_reserved (.inr hop)
  next hop =>
  have hrsvd : rsvdField v = 0 := not_not.mp hrsvd
  have hop : opField v ∈ cmdRows.map CmdRow.op := not_not.mp hop
  obtain ⟨r, hr, hrop⟩ := List.mem_map.mp hop
  have hbadArg := cmdRows_badArg_iff hr arg
  have hbadLen := cmdRows_badLen_iff hr len
  rw [hrop] at hbadArg hbadLen
  have hraise (h : r.form.accepts arg = false) : s.execWord v = .next badCmd :=
    State.execWord_of_error (decode_argForm hrsvd hr hrop h)
  split
  next h => exact hraise (hbadArg.mpr (.inl h))
  next hzero =>
  split
  next h => exact hraise (hbadArg.mpr (.inr (.inl h)))
  next hcoord =>
  split
  next h => exact hraise (hbadArg.mpr (.inr (.inr h)))
  next hflags =>
  have harg : r.form.accepts arg = true :=
    Bool.eq_true_of_not_eq_false (mt hbadArg.mp (not_or.mpr ⟨hzero, not_or.mpr ⟨hcoord, hflags⟩⟩))
  split
  next h => exact State.execWord_of_error (decode_badLen hrsvd hr hrop harg (hbadLen.mpr h))
  next hlen =>
  obtain ⟨hmin, hmax⟩ : r.lenMin ≤ len ∧ len ≤ r.lenMax := by
    simpa only [not_or, not_lt] using mt hbadLen.mp hlen
  have hdecode := decode_make hrsvd hr hrop harg hmin hmax
  exact ⟨_, hdecode, (cmdRows_make_opByte hr len arg).trans hrop,
    cmdRows_make_lenByte hr arg hmin hmax, cmdRows_make_argByte hr len harg,
    State.execWord_of_ok hdecode⟩

/-- Settles O6: an OP in a reserved range has no row, and retiring the raise only empties PEND. -/
theorem reservedWordsRaiseBadCommand : Obligations.ReservedWordsRaiseBadCommand := by
  intro s v hpend hreserved
  have hexec : s.execWord v = .next (s.withErr .badCmd) :=
    s.execWord_reserved (hreserved.imp_right fun hop hmem => cmdRows_op_not_reserved _ hmem hop)
  rw [State.engineTurn_busy hpend, hexec]
  rfl

end Sys2Proof.Machine
end

section
/-! PROOFS. The two ways a command ends, success and a raised error, and the statement O12 of
60_exceptions.md. -/

namespace Sys2Proof.Machine

variable {s : State}

/-! ### How a command ends -/

/-- The result is that of a command run in `s`: it succeeds in some state, or raises an error in `s`
itself, where nothing has been written yet (rules R15, R16, R25). -/
def SucceedsOrRaises (s : State) (r : Result) : Prop :=
  (∃ u : State, r = u.succeed) ∨ ∃ e, r = s.raise e

theorem State.succeed_succeedsOrRaises (s u : State) : SucceedsOrRaises s u.succeed :=
  .inl ⟨u, rfl⟩

theorem State.raise_succeedsOrRaises (s : State) (e : ErrCode) : SucceedsOrRaises s (s.raise e) :=
  .inr ⟨e, rfl⟩

/-- A check raises its error in the state it was made in, or leaves the end to what follows it. -/
theorem State.require_succeedsOrRaises {c : Bool} {e : ErrCode} {k : Result}
    (hk : SucceedsOrRaises s k) : SucceedsOrRaises s (s.require c e k) := by
  cases c with
  | true => exact hk
  | false => exact s.raise_succeedsOrRaises e

/-- Every command makes its checks in the state it started in, before any write, and then succeeds. The
commands are grouped by the number of their checks (rule R16). -/
theorem exec_succeedsOrRaises (i : Instr) (s : State) : SucceedsOrRaises s (exec i s) := by
  cases i with
  | nop | zeroize | bcKey | ofbIv | hInit | psStart => exact s.succeed_succeedsOrRaises _
  | bcEnc | hBlk | psFinish | bfFilter =>
    exact State.require_succeedsOrRaises (s.succeed_succeedsOrRaises _)
  | ofbBlk | hFin | psFeed | psLook | psRlook =>
    exact State.require_succeedsOrRaises
      (State.require_succeedsOrRaises (s.succeed_succeedsOrRaises _))
  | ofbEncFin | ofbDecFin | bfEnc | bfDec =>
    exact State.require_succeedsOrRaises (State.require_succeedsOrRaises
      (State.require_succeedsOrRaises (s.succeed_succeedsOrRaises _)))

/-- A word that fails a decode check raises that check's error; any other ends as its command does. -/
theorem State.execWord_succeedsOrRaises (s : State) (v : Word) :
    SucceedsOrRaises s (s.execWord v) := by
  obtain ⟨e, -, he⟩ | ⟨i, -, hi⟩ := s.execWord_cases v
  · exact he ▸ s.raise_succeedsOrRaises (decodeErrCode e)
  · exact hi ▸ exec_succeedsOrRaises i s

/-! ### The statement -/

/-- Settles O12: a word that succeeds leaves ERRCODE 0, so that an ERRCODE other than 0 was raised in the
state before, and retiring only empties PEND. -/
theorem errorWritesOnlyErrcode : Obligations.ErrorWritesOnlyErrcode := by
  intro s t hbusy hturn herr
  obtain ⟨hidle, -⟩ | ⟨v, u, -, hu, rfl⟩ := State.engineTurn_eq_next hturn
  · exact absurd hbusy (by simp [hidle])
  · obtain ⟨w, hsucceed⟩ | ⟨e, hraise⟩ := s.execWord_succeedsOrRaises v
    · obtain rfl : w.withErr .ok = u := Host.Outcome.next.inj (hsucceed.symm.trans hu)
      exact absurd rfl herr
    · obtain rfl : s.withErr e = u := Host.Outcome.next.inj (hraise.symm.trans hu)
      rfl

end Sys2Proof.Machine
end

section
/-! PROOFS. What reset leaves of the state before it and how the block takes the first CMD write after it,
and the statement O51 of 70_reset_and_hazards.md. -/

namespace Sys2Proof.Machine

/-! ### Reset and the first CMD write -/

/-- A command in flight does not hold reset back (rule R310). -/
theorem State.event_reset (s : State) : s.event .reset = .next s.hwReset := rfl

/-- What reset keeps of the state before it, the agenda and the draw counter, is no state of the
block. -/
theorem State.hwReset_block (s : State) : s.hwReset.block = State.reset.block := rfl

/-- Reset drops the command in flight (rules R45, R310). -/
theorem State.hwReset_busy (s : State) : s.hwReset.busy = false :=
  State.busy_eq_false_iff.mpr s.hwReset_pend

/-- A CMD write with PEND empty is served, and its word stands in PEND and in CMD (rule R66). -/
theorem State.event_cmdWrite_of_idle {s : State} (v : Word) (h : s.busy = false) :
    ∃ u, s.event (evWrite 0x00 v) = .next u ∧ u.pend = some v ∧ u.cmd = v := by
  refine ⟨s.serveWrite offCmd v, s.event_evWrite v (by decide) rfl, ?_⟩
  rw [State.serveWrite, State.writeReg_cmd_idle v h]
  exact ⟨rfl, rfl⟩

/-! ### The statement -/

/-- Settles O51: reset leaves PEND empty in any state, so that the CMD write after it finds the block
idle. -/
theorem resetRestoresAndAccepts : Obligations.ResetRestoresAndAccepts := fun s =>
  ⟨s.hwReset, s.event_reset, s.hwReset_block, fun v => State.event_cmdWrite_of_idle v s.hwReset_busy⟩

end Sys2Proof.Machine
end

section
/-! PROOFS. The commands and their words: which row of rule R95 makes a command, what a word that decodes
is made of, and the statements O1, O2, O4 and O5 of 30_encoding.md. -/

namespace Sys2Proof

variable {v : Word} {r : CmdRow} {i : Instr}

/-! ### Words and their fields -/

/-- A word is its four fields, RSVD first (rule R90). -/
theorem word_eq_fields (v : Word) : v = rsvdField v ++ argField v ++ lenField v ++ opField v := by
  refine BitVec.eq_of_getLsbD_eq fun i hi => ?_
  simp only [rsvdField, argField, lenField, opField, BitVec.getLsbD_append,
    BitVec.getLsbD_extractLsb']
  interval_cases i <;> simp

/-- A command word is its bytes with RSVD 0 before them (rule R90). -/
theorem commandWord_eq_append (op len arg : Byte) :
    commandWord op len arg = (0 : Byte) ++ arg ++ len ++ op := by
  obtain ⟨hop, hlen, harg, hrsvd⟩ := commandWord_fields op len arg
  rw [word_eq_fields (commandWord op len arg), hop, hlen, harg, hrsvd]

/-- Words are equal when their fields are. -/
theorem append_bytes_inj {a b c d a' b' c' d' : Byte} :
    a ++ b ++ c ++ d = a' ++ b' ++ c' ++ d' ↔ a = a' ∧ b = b' ∧ c = c' ∧ d = d' := by
  have append_inj {m n : Nat} {x x' : BitVec m} {y y' : BitVec n} :
      x ++ y = x' ++ y' ↔ x = x' ∧ y = y' := by
    refine ⟨fun h => ⟨?_, ?_⟩, fun ⟨hx, hy⟩ => hx ▸ hy ▸ rfl⟩
    · exact BitVec.eq_of_getLsbD_eq fun i hi => by
        simpa [BitVec.getLsbD_append] using congrArg (·.getLsbD (n + i)) h
    · exact BitVec.eq_of_getLsbD_eq fun i hi => by
        simpa [BitVec.getLsbD_append, hi] using congrArg (·.getLsbD i) h
  rw [append_inj, append_inj, append_inj, and_assoc, and_assoc]

/-- Words are masked field by field. -/
theorem and_append_bytes (a b c d a' b' c' d' : Byte) :
    (a ++ b ++ c ++ d) &&& (a' ++ b' ++ c' ++ d') =
      (a &&& a') ++ (b &&& b') ++ (c &&& c') ++ (d &&& d') := by
  simp only [BitVec.and_append]

/-! ### The row of a command -/

/-- The row `r` makes the command `i` of its own bytes, which pass the row's checks. -/
structure IsRowOf (r : CmdRow) (i : Instr) : Prop where
  mem : r ∈ cmdRows
  op : r.op = i.opByte
  arg : r.form.accepts i.argByte = true
  min : r.lenMin ≤ i.lenByte.toNat
  max : i.lenByte.toNat ≤ r.lenMax
  make : r.make i.lenByte.toNat i.argByte = i

/-- A COORD argument is accepted and read back (rule R93). -/
theorem coord_argByte {row col : Nat} (hrow : row ≤ 7) (hcol : col ≤ 7) :
    let arg := (Instr.psLook row col).argByte
    ArgForm.coord.accepts arg = true ∧ coordRow arg = row ∧ coordCol arg = col := by
  interval_cases row <;> interval_cases col <;> decide

/-- A FLAGS argument is accepted and read back (rule R93). -/
theorem flags_argByte (len : Nat) (upcase foldj : Bool) :
    let arg := (Instr.bfFilter len upcase foldj).argByte
    ArgForm.flags.accepts arg = true ∧ arg.getLsbD 0 = upcase ∧ arg.getLsbD 1 = foldj := by
  cases upcase <;> cases foldj <;> simp [Instr.argByte, ArgForm.accepts]

/-- A LEN up to 64 is read back from its byte. -/
theorem toNat_ofNat_of_le {len : Nat} (h : len ≤ 64) : (BitVec.ofNat 8 len).toNat = len := by
  simp; omega

/-- A command without an operand has the row at its place in the table. -/
theorem isRowOf_fixed {k : Nat} (hk : k < cmdRows.length) (hop : cmdRows[k].op = i.opByte)
    (harg : cmdRows[k].form.accepts i.argByte = true) (hmin : cmdRows[k].lenMin = i.lenByte.toNat)
    (hmax : cmdRows[k].lenMax = i.lenByte.toNat)
    (hmake : cmdRows[k].make i.lenByte.toNat i.argByte = i) : ∃ r, IsRowOf r i :=
  ⟨_, List.getElem_mem hk, hop, harg, hmin.le, hmax.ge, hmake⟩

/-- A command with a LEN operand up to 64 has the row at its place in the table. -/
theorem isRowOf_len {k len : Nat} (hk : k < cmdRows.length) (hop : cmdRows[k].op = i.opByte)
    (harg : cmdRows[k].form.accepts i.argByte = true) (hbyte : i.lenByte = BitVec.ofNat 8 len)
    (hlen : len ≤ cmdRows[k].lenMax) (hmin : cmdRows[k].lenMin = 0) (hmax : cmdRows[k].lenMax ≤ 64)
    (hmake : cmdRows[k].make len i.argByte = i) : ∃ r, IsRowOf r i := by
  have hread : i.lenByte.toNat = len := hbyte ▸ toNat_ofNat_of_le (hlen.trans hmax)
  exact ⟨_, List.getElem_mem hk, hop, harg, hmin ▸ Nat.zero_le _, hread ▸ hlen, hread ▸ hmake⟩

/-- Every well-formed command has its row in rule R95's table. -/
theorem exists_isRowOf (h : i.wellFormed = true) : ∃ r, IsRowOf r i := by
  cases i with
  | nop => exact isRowOf_fixed (k := 0) (by decide) rfl rfl rfl rfl rfl
  | zeroize => exact isRowOf_fixed (k := 1) (by decide) rfl rfl rfl rfl rfl
  | bcKey => exact isRowOf_fixed (k := 2) (by decide) rfl rfl rfl rfl rfl
  | bcEnc => exact isRowOf_fixed (k := 3) (by decide) rfl rfl rfl rfl rfl
  | ofbIv => exact isRowOf_fixed (k := 4) (by decide) rfl rfl rfl rfl rfl
  | ofbBlk => exact isRowOf_fixed (k := 5) (by decide) rfl rfl rfl rfl rfl
  | ofbEncFin len =>
    exact isRowOf_len (k := 6) (by decide) rfl rfl rfl (of_decide_eq_true h) rfl (by decide) rfl
  | ofbDecFin => exact isRowOf_fixed (k := 7) (by decide) rfl rfl rfl rfl rfl
  | hInit => exact isRowOf_fixed (k := 8) (by decide) rfl rfl rfl rfl rfl
  | hBlk => exact isRowOf_fixed (k := 9) (by decide) rfl rfl rfl rfl rfl
  | hFin len =>
    exact isRowOf_len (k := 10) (by decide) rfl rfl rfl (of_decide_eq_true h) rfl (by decide) rfl
  | psStart => exact isRowOf_fixed (k := 11) (by decide) rfl rfl rfl rfl rfl
  | psFeed len =>
    exact isRowOf_len (k := 12) (by decide) rfl rfl rfl (of_decide_eq_true h) rfl (by decide) rfl
  | psFinish => exact isRowOf_fixed (k := 13) (by decide) rfl rfl rfl rfl rfl
  | psLook row col =>
    obtain ⟨hrow, hcol⟩ : row ≤ 7 ∧ col ≤ 7 := by simpa [Instr.wellFormed] using h
    obtain ⟨harg, hr, hc⟩ := coord_argByte hrow hcol
    exact isRowOf_fixed (k := 14) (by decide) rfl harg rfl rfl (congrArg₂ Instr.psLook hr hc)
  | psRlook c => exact isRowOf_fixed (k := 15) (by decide) rfl rfl rfl rfl rfl
  | bfFilter len upcase foldj =>
    obtain ⟨harg, hu, hf⟩ := flags_argByte len upcase foldj
    exact isRowOf_len (k := 16) (by decide) rfl harg rfl (of_decide_eq_true h) rfl (by decide)
      (congrArg₂ (Instr.bfFilter len) hu hf)
  | bfEnc len =>
    exact isRowOf_len (k := 17) (by decide) rfl rfl rfl (of_decide_eq_true h) rfl (by decide) rfl
  | bfDec len =>
    exact isRowOf_len (k := 18) (by decide) rfl rfl rfl (of_decide_eq_true h) rfl (by decide) rfl

/-- The row of a command decodes the command's word to it. -/
theorem decode_encode_of_isRowOf (h : IsRowOf r i) : decode (encode i) = .ok i := by
  obtain ⟨hop, hlen, harg, hrsvd⟩ := commandWord_fields i.opByte i.lenByte i.argByte
  have hmake := decode_make (v := encode i) hrsvd h.mem (h.op.trans hop.symm)
  simp only [encode, hlen, harg, h.make] at hmake
  exact hmake h.arg h.min h.max

theorem decode_encode (h : i.wellFormed = true) : decode (encode i) = .ok i := by
  obtain ⟨r, hr⟩ := exists_isRowOf h
  exact decode_encode_of_isRowOf hr

/-! ### What decodes -/

/-- A word decodes to a command exactly when RSVD is 0 and the row of its OP accepts ARG and LEN and
makes the command of them (rule R98). -/
theorem decode_eq_ok_iff :
    decode v = .ok i ↔ rsvdField v = 0 ∧ ∃ r ∈ cmdRows, r.op = opField v ∧
      r.form.accepts (argField v) = true ∧ r.lenMin ≤ (lenField v).toNat ∧
      (lenField v).toNat ≤ r.lenMax ∧ r.make (lenField v).toNat (argField v) = i := by
  refine ⟨fun h => ?_, fun ⟨hrsvd, r, hr, hop, harg, hmin, hmax, hmake⟩ =>
    hmake ▸ decode_make hrsvd hr hop harg hmin hmax⟩
  have hrsvd : rsvdField v = 0 := by
    by_contra hne
    simp [decode_rsvd hne] at h
  have hop : opField v ∈ cmdRows.map CmdRow.op := by
    by_contra hne
    simp [decode_reservedOp hrsvd hne] at h
  obtain ⟨r, hr, hrop⟩ := List.mem_map.mp hop
  have harg : r.form.accepts (argField v) = true := by
    by_contra hne
    simp [decode_argForm hrsvd hr hrop (by simpa using hne)] at h
  have hlen : r.lenMin ≤ (lenField v).toNat ∧ (lenField v).toNat ≤ r.lenMax := by
    by_contra hne
    simp [decode_badLen hrsvd hr hrop harg (by omega)] at h
  rw [decode_make hrsvd hr hrop harg hlen.1 hlen.2] at h
  exact ⟨hrsvd, r, hr, hrop, harg, hlen.1, hlen.2, by simpa using h⟩

/-- What a row makes of a legal LEN is well-formed; the coordinates are three bits each. -/
theorem cmdRows_make_wellFormed (hr : r ∈ cmdRows) {len : Nat} (arg : Byte)
    (hmax : len ≤ r.lenMax) : (r.make len arg).wellFormed = true := by
  have hrow : coordRow arg ≤ 7 := Nat.le_of_lt_succ (arg.extractLsb' 4 3).isLt
  have hcol : coordCol arg ≤ 7 := Nat.le_of_lt_succ (arg.extractLsb' 0 3).isLt
  fin_cases hr <;> simp_all [Instr.wellFormed]

/-- A word that decodes is the word of the well-formed command it decodes to. -/
theorem encode_of_decode (h : decode v = .ok i) : i.wellFormed = true ∧ encode i = v := by
  obtain ⟨hrsvd, r, hr, hop, harg, hmin, hmax, rfl⟩ := decode_eq_ok_iff.mp h
  have hlen : (r.make (lenField v).toNat (argField v)).lenByte = lenField v :=
    BitVec.eq_of_toNat_eq (cmdRows_make_lenByte hr _ hmin hmax)
  refine ⟨cmdRows_make_wellFormed hr _ hmax, ?_⟩
  rw [encode, commandWord_eq_append, cmdRows_make_opByte hr, hlen, cmdRows_make_argByte hr _ harg,
    hop, ← hrsvd, ← word_eq_fields]

/-! ### The opcode table -/

/-- The bits of ARG that a form asks to be 0 (rule R93). -/
def ArgForm.mask : ArgForm → Byte
  | .zero => 0xFF
  | .coord => 0x88
  | .char => 0x00
  | .flags => 0xFC

/-- The bits of LEN that are the same in all legal values of a row: all of them where LEN is fixed. -/
def CmdRow.lenMask (r : CmdRow) : Byte :=
  if r.lenMin = r.lenMax then 0xFF
  else if r.lenMax = 15 then 0xF0
  else if r.lenMax = 63 then 0xC0
  else 0x00

/-- The entry of the opcode table for a row: match, mask, len_min, len_max. -/
def CmdRow.tableEntry (r : CmdRow) : Word × Word × Nat × Nat :=
  (commandWord r.op (BitVec.ofNat 8 r.lenMin) 0, 0xFF#8 ++ r.form.mask ++ r.lenMask ++ 0xFF#8,
    r.lenMin, r.lenMax)

/-- spec/opcode_table.json is rule R95's table. -/
theorem opcodeTable_eq_map : Machine.opcodeTable = cmdRows.map CmdRow.tableEntry := by decide

theorem ArgForm.accepts_iff_mask (f : ArgForm) (arg : Byte) :
    f.accepts arg = true ↔ arg &&& f.mask = 0 := by
  have h : ∀ n < 256, ∀ f ∈ [ArgForm.zero, .coord, .char, .flags],
      f.accepts (BitVec.ofNat 8 n) = true ↔ BitVec.ofNat 8 n &&& f.mask = 0 := by decide +kernel
  simpa using h arg.toNat arg.isLt f (by cases f <;> simp)

/-- A legal LEN has the bits that the mask of its row tests. -/
theorem cmdRows_lenMask (hr : r ∈ cmdRows) {len : Byte} (hmin : r.lenMin ≤ len.toNat)
    (hmax : len.toNat ≤ r.lenMax) : len &&& r.lenMask = BitVec.ofNat 8 r.lenMin := by
  have h : ∀ r ∈ cmdRows, ∀ n < 65, r.lenMin ≤ n → n ≤ r.lenMax →
      BitVec.ofNat 8 n &&& r.lenMask = BitVec.ofNat 8 r.lenMin := by decide +kernel
  have hle : r.lenMax ≤ 64 := (by decide : ∀ r ∈ cmdRows, r.lenMax ≤ 64) r hr
  simpa using h r hr len.toNat (by omega) hmin hmax

/-- With a legal LEN, the mask test of a row's entry is the test of RSVD, OP and ARG. -/
theorem tableEntry_match_iff (hr : r ∈ cmdRows) (hmin : r.lenMin ≤ (lenField v).toNat)
    (hmax : (lenField v).toNat ≤ r.lenMax) :
    v &&& r.tableEntry.2.1 = r.tableEntry.1 ↔
      rsvdField v = 0 ∧ r.op = opField v ∧ r.form.accepts (argField v) = true := by
  have hand : v &&& r.tableEntry.2.1 =
      rsvdField v ++ (argField v &&& r.form.mask) ++ BitVec.ofNat 8 r.lenMin ++ opField v := by
    refine (congrArg (· &&& r.tableEntry.2.1) (word_eq_fields v)).trans ?_
    refine (and_append_bytes ..).trans ?_
    rw [cmdRows_lenMask hr hmin hmax, show (0xFF#8 : Byte) = BitVec.allOnes 8 from rfl,
      BitVec.and_allOnes, BitVec.and_allOnes]
  rw [hand, CmdRow.tableEntry, commandWord_eq_append, append_bytes_inj, ArgForm.accepts_iff_mask]
  tauto

/-! ### The statements -/

/-- Settles O1: every well-formed command has a row, and the row decodes its word. -/
theorem decodeOfEncodeIsIdentity : Obligations.DecodeOfEncodeIsIdentity := fun _ => decode_encode

/-- Settles O2: the command a row makes keeps the word's OP, LEN and ARG, and RSVD is 0. -/
theorem encodeOfDecodeIsIdentity : Obligations.EncodeOfDecodeIsIdentity :=
  fun _ _ => encode_of_decode

/-- Settles O4: the opcode table is the decoder's table, entry by entry. -/
theorem wordDecodesExactlyByOpcodeTable : Obligations.WordDecodesExactlyByOpcodeTable := by
  intro v
  rw [opcodeTable_eq_map]
  simp only [List.mem_map, exists_exists_and_eq_and]
  refine ⟨fun ⟨i, h⟩ => ?_, fun ⟨r, hr, hmatch, hmin, hmax⟩ => ?_⟩
  · obtain ⟨hrsvd, r, hr, hop, harg, hmin, hmax, -⟩ := decode_eq_ok_iff.mp h
    exact ⟨r, hr, (tableEntry_match_iff hr hmin hmax).mpr ⟨hrsvd, hop, harg⟩, hmin, hmax⟩
  · obtain ⟨hrsvd, hop, harg⟩ := (tableEntry_match_iff hr hmin hmax).mp hmatch
    exact ⟨_, decode_make hrsvd hr hop harg hmin hmax⟩

/-- Settles O5: each word is the encoding of its command, and the two others fail at RSVD and LEN. -/
theorem sampleCommandWordsDecode : Obligations.SampleCommandWordsDecode :=
  ⟨decode_encode (i := .nop) rfl, decode_encode (i := .bcKey) rfl, decode_encode (i := .ofbBlk) rfl,
    decode_encode (i := .ofbEncFin 0) rfl, decode_encode (i := .hBlk) rfl,
    decode_encode (i := .hFin 3) rfl, decode_encode (i := .psLook 2 3) rfl,
    decode_encode (i := .psRlook 0x51) rfl, decode_encode (i := .bfFilter 18 true true) rfl,
    decode_encode (i := .bfEnc 5) rfl, decode_rsvd (by decide),
    decode_badLen (r := cmdRows[2]) rfl (by simp [cmdRows]) rfl rfl (.inr (by decide))⟩

end Sys2Proof
end

section
/-! PROOFS. What each command does, said once: the checks it makes, the writes of its success, and that it
ends in one of these two ways. With it the statements about single commands whose writes can be read
off: O7, O8, O11, O13 to O16, O19, O26, O30, O33 and O55. -/

namespace Sys2Proof.Machine

variable {s t u : State} {i : Instr}

/-! ### Checks and writes -/

/-- Every check of the command passes (rules R92, R280). -/
def State.admits : State → Instr → Bool
  | _, .nop | _, .zeroize | _, .bcKey | _, .ofbIv | _, .hInit | _, .psStart => true
  | s, .bcEnc => s.ksv
  | s, .ofbBlk => s.ksv && s.ivv
  | s, .ofbEncFin len => decide (len ≤ 15) && (s.ksv && s.ivv)
  | s, .ofbDecFin => s.ksv && (s.ivv && padValid (xorBytes (s.operand 16) s.keystream))
  | s, .hBlk => s.hact
  | s, .hFin len => decide (len ≤ 63) && s.hact
  | s, .psFeed len => decide (len ≤ 64) && s.sqb
  | s, .psFinish => s.sqb
  | s, .psLook row col => s.sqv && (decide (row < 5) && decide (col < 5))
  | s, .psRlook c => s.sqv && inSquare s.sq c
  | _, .bfFilter len _ _ => decide (len ≤ 64)
  | s, .bfEnc len | s, .bfDec len =>
    decide (len ≤ 64) && (s.sqv && (s.operand len).all (inSquare s.sq))

/-- What the command writes when its checks pass, less ERRCODE. -/
def State.effect : State → Instr → State
  | s, .nop => s
  | s, .zeroize => s.zeroize
  | s, .bcKey => ({ s with sched := keyExpand (s.operand 16), ksv := true } : State).endStream
  | s, .bcEnc => s.produce (blockTransform s.sched (s.operand 16))
  | s, .ofbIv => { s.setCiv (s.operand 16) with ivv := true }
  | s, .ofbBlk => (s.produce (xorBytes (s.operand 16) s.keystream)).setCiv s.keystream
  | s, .ofbEncFin len => (s.produce (xorBytes (pkcsPad (s.operand len)) s.keystream)).endStream
  | s, .ofbDecFin => (s.produce (pkcsUnpad (xorBytes (s.operand 16) s.keystream))).endStream
  | s, .hInit => { s with h := Config.hashInit, mlen := 0, hact := true }
  | s, .hBlk => { s with h := compress s.h (s.operand 64), mlen := s.mlen + 512 }
  | s, .hFin len =>
    { s.produce (digestBytes (absorbTail s.h
        (hashTail (s.operand len) (s.mlen + BitVec.ofNat 64 (8 * len))))) with
      h := Vector.replicate 5 0, mlen := 0, hact := false }
  | s, .psStart =>
    { s with
      sq := Vector.replicate 25 0, sqn := 0, seen := Vector.replicate 25 false
      sqb := true, sqv := false }
  | s, .psFeed len => s.setSquare (s.square.feed (s.operand len))
  | s, .psFinish => { s.setSquare s.square.fill with sqb := false, sqv := true }
  | s, .psLook row col => { s with result := (cell s.sq row col).setWidth 32 }
  | s, .psRlook c =>
    { s with
      result := (BitVec.ofNat 32 (coordOf s.sq c).1 <<< 4) ||| BitVec.ofNat 32 (coordOf s.sq c).2 }
  | s, .bfFilter len upcase foldj => s.produce (filterText upcase foldj (s.operand len))
  | s, .bfEnc len => s.produce (bifidEncrypt s.sq (s.operand len))
  | s, .bfDec len => s.produce (bifidDecrypt s.sq (s.operand len))

/-- The state after a command that succeeds. -/
def State.success (s : State) (i : Instr) : State := (s.effect i).withErr .ok

/-- `r` is what a command answers in `s` whose checks come to `c` and whose success is `u`: the success,
or an error that is raised in `s` itself. -/
def IsAnswer (s : State) (c : Bool) (u : State) (r : Result) : Prop :=
  (c = true ∧ r = .next (u.withErr .ok)) ∨ (c = false ∧ ∃ e, e ≠ .ok ∧ r = .next (s.withErr e))

theorem State.succeed_isAnswer : IsAnswer s true u u.succeed := .inl ⟨rfl, rfl⟩

/-- A check before the others (rule R16). -/
theorem State.require_isAnswer {c c' : Bool} {e : ErrCode} {k : Result} (he : e ≠ .ok)
    (hk : IsAnswer s c' u k) : IsAnswer s (c && c') u (s.require c e k) := by
  cases c with
  | true => exact hk
  | false => exact .inr ⟨rfl, e, he, rfl⟩

/-- The last check. -/
theorem State.require_succeed_isAnswer {c : Bool} {e : ErrCode} (he : e ≠ .ok) :
    IsAnswer s c u (s.require c e u.succeed) :=
  (Bool.and_true c).subst (motive := fun b => IsAnswer s b u (s.require c e u.succeed))
    (State.require_isAnswer he State.succeed_isAnswer)

/-- Every command makes its checks and then its writes. The commands are grouped by the number of their
checks (rule R16). -/
theorem exec_isAnswer (i : Instr) (s : State) :
    IsAnswer s (s.admits i) (s.effect i) (exec i s) := by
  cases i with
  | nop | zeroize | bcKey | ofbIv | hInit | psStart => exact State.succeed_isAnswer
  | bcEnc | hBlk | psFinish | bfFilter => exact State.require_succeed_isAnswer (by decide)
  | ofbBlk | hFin | psFeed | psLook | psRlook =>
    exact State.require_isAnswer (by decide) (State.require_succeed_isAnswer (by decide))
  | ofbEncFin | ofbDecFin | bfEnc | bfDec =>
    exact State.require_isAnswer (by decide)
      (State.require_isAnswer (by decide) (State.require_succeed_isAnswer (by decide)))

/-- A command whose checks pass succeeds. -/
theorem exec_of_admits (h : s.admits i = true) : exec i s = .next (s.success i) := by
  obtain ⟨-, hr⟩ | ⟨hc, -⟩ := exec_isAnswer i s
  · exact hr
  · simp [h] at hc

/-- A command with a failing check raises an error and writes nothing else. -/
theorem exec_of_not_admits (h : s.admits i = false) :
    ∃ e, e ≠ .ok ∧ exec i s = .next (s.withErr e) := by
  obtain ⟨hc, -⟩ | ⟨-, he⟩ := exec_isAnswer i s
  · simp [h] at hc
  · exact he

/-- The two ways a command can end. -/
theorem exec_eq_next (h : exec i s = .next t) :
    (s.admits i = true ∧ t = s.success i) ∨
    (s.admits i = false ∧ ∃ e, e ≠ .ok ∧ t = s.withErr e) := by
  cases hc : s.admits i with
  | true => exact .inl ⟨rfl, Host.Outcome.next.inj (h.symm.trans (exec_of_admits hc))⟩
  | false =>
    obtain ⟨e, he, hr⟩ := exec_of_not_admits hc
    exact .inr ⟨rfl, e, he, Host.Outcome.next.inj (h.symm.trans hr)⟩

/-- Every command answers a next state. -/
theorem exec_answers_next (i : Instr) (s : State) : ∃ t, exec i s = .next t := by
  cases hc : s.admits i with
  | true => exact ⟨_, exec_of_admits hc⟩
  | false =>
    obtain ⟨e, -, hr⟩ := exec_of_not_admits hc
    exact ⟨_, hr⟩

/-! ### What a command leaves unchanged -/

/-- No command writes CMD, OVR, PEND or SNAP, or the model's own fields (rules R23, R35, R36). -/
theorem effect_frame (i : Instr) (s : State) :
    (s.effect i).cmd = s.cmd ∧ (s.effect i).ovr = s.ovr ∧ (s.effect i).pend = s.pend ∧
      (s.effect i).snap = s.snap ∧ (s.effect i).agenda = s.agenda ∧
      (s.effect i).rdata = s.rdata ∧ (s.effect i).draws = s.draws := by
  cases i with
  | psFinish => simp [State.effect]
  | _ => exact ⟨rfl, rfl, rfl, rfl, rfl, rfl, rfl⟩

/-- What no command writes, whether it succeeds or not. -/
theorem exec_frame (h : exec i s = .next t) :
    t.cmd = s.cmd ∧ t.ovr = s.ovr ∧ t.pend = s.pend ∧ t.snap = s.snap ∧
      t.agenda = s.agenda ∧ t.rdata = s.rdata ∧ t.draws = s.draws := by
  obtain ⟨-, rfl⟩ | ⟨-, e, -, rfl⟩ := exec_eq_next h
  · exact effect_frame i s
  · exact ⟨rfl, rfl, rfl, rfl, rfl, rfl, rfl⟩

/-- S and KSV are BC_KEY's (rule R95). -/
theorem effect_schedule (hz : i.opByte ≠ 0x01) (h : i.opByte ≠ 0x10) (s : State) :
    (s.effect i).sched = s.sched ∧ (s.effect i).ksv = s.ksv := by
  cases i with
  | zeroize => exact absurd rfl hz
  | bcKey => exact absurd rfl h
  | psFinish => simp [State.effect]
  | _ => exact ⟨rfl, rfl⟩

/-- CIV and IVV are BC_KEY's and the OFB commands' (rule R95). -/
theorem effect_stream (hz : i.opByte ≠ 0x01)
    (h : i.opByte ∉ ([0x10, 0x20, 0x21, 0x22, 0x23] : List Byte)) (s : State) :
    (s.effect i).civ = s.civ ∧ (s.effect i).ivv = s.ivv := by
  cases i with
  | zeroize => exact absurd rfl hz
  | bcKey | ofbIv | ofbBlk | ofbEncFin | ofbDecFin => simp [Instr.opByte] at h
  | psFinish => simp [State.effect]
  | _ => exact ⟨rfl, rfl⟩

/-- H, MLEN and HACT are the hash commands' (rule R95). -/
theorem effect_digest (hz : i.opByte ≠ 0x01) (h : i.opByte ∉ ([0x30, 0x31, 0x32] : List Byte))
    (s : State) :
    (s.effect i).h = s.h ∧ (s.effect i).mlen = s.mlen ∧ (s.effect i).hact = s.hact := by
  cases i with
  | zeroize => exact absurd rfl hz
  | hInit | hBlk | hFin => simp [Instr.opByte] at h
  | psFinish => simp [State.effect]
  | _ => exact ⟨rfl, rfl, rfl⟩

/-- The square is the three build commands' (rule R95). -/
theorem effect_square (hz : i.opByte ≠ 0x01) (h : i.opByte ∉ ([0x40, 0x41, 0x42] : List Byte))
    (s : State) :
    (s.effect i).sq = s.sq ∧ (s.effect i).sqn = s.sqn ∧ (s.effect i).seen = s.seen ∧
      (s.effect i).sqb = s.sqb ∧ (s.effect i).sqv = s.sqv := by
  cases i with
  | zeroize => exact absurd rfl hz
  | psStart | psFeed | psFinish => simp [Instr.opByte] at h
  | _ => exact ⟨rfl, rfl, rfl, rfl, rfl⟩

/-- RESULT is the two lookups' (rule R95). -/
theorem effect_result (hz : i.opByte ≠ 0x01) (h : i.opByte ∉ ([0x43, 0x44] : List Byte))
    (s : State) : (s.effect i).result = s.result := by
  cases i with
  | zeroize => exact absurd rfl hz
  | psLook | psRlook => simp [Instr.opByte] at h
  | psFinish => simp [State.effect]
  | _ => rfl

/-- DOUT and OUTLEN are the output-producing commands' (rule R28). -/
theorem effect_output (hz : i.opByte ≠ 0x01)
    (h : i.opByte ∉ ([0x11, 0x21, 0x22, 0x23, 0x32, 0x50, 0x51, 0x52] : List Byte)) (s : State) :
    (s.effect i).dout = s.dout ∧ (s.effect i).outlen = s.outlen := by
  cases i with
  | zeroize => exact absurd rfl hz
  | bcEnc | ofbBlk | ofbEncFin | ofbDecFin | hFin | bfFilter | bfEnc | bfDec =>
    simp [Instr.opByte] at h
  | psFinish => simp [State.effect]
  | _ => exact ⟨rfl, rfl⟩

/-! ### Errors, one check at a time -/

/-- No key (rule R280). -/
theorem exec_noKey (h : s.ksv = false) : ∀ i ∈ ([.bcEnc, .ofbBlk, .ofbDecFin] : List Instr) ++
    (List.range 16).map Instr.ofbEncFin, exec i s = .next (s.withErr .noKey) := by
  simp only [List.mem_append, List.mem_cons, List.mem_map, List.mem_range, List.not_mem_nil]
  rintro i ((rfl | rfl | rfl | ⟨⟨⟩⟩) | ⟨len, hlen, rfl⟩)
  · simp [exec, execBcEnc, h]
  · simp [exec, execOfbBlk, h]
  · simp [exec, execOfbDecFin, h]
  · simp [exec, execOfbEncFin, h, Nat.le_of_lt_succ hlen]

/-- A key but no open stream (rule R280). -/
theorem exec_noIv (hk : s.ksv = true) (h : s.ivv = false) :
    ∀ i ∈ ([.ofbBlk, .ofbDecFin] : List Instr) ++ (List.range 16).map Instr.ofbEncFin,
      exec i s = .next (s.withErr .noIv) := by
  simp only [List.mem_append, List.mem_cons, List.mem_map, List.mem_range, List.not_mem_nil]
  rintro i ((rfl | rfl | ⟨⟨⟩⟩) | ⟨len, hlen, rfl⟩)
  · simp [exec, execOfbBlk, hk, h]
  · simp [exec, execOfbDecFin, hk, h]
  · simp [exec, execOfbEncFin, hk, h, Nat.le_of_lt_succ hlen]

/-- No digest in progress (rule R280). -/
theorem exec_noHash (h : s.hact = false) : ∀ i ∈ ([.hBlk] : List Instr) ++
    (List.range 64).map Instr.hFin, exec i s = .next (s.withErr .noHash) := by
  simp only [List.mem_append, List.mem_cons, List.mem_map, List.mem_range, List.not_mem_nil]
  rintro i ((rfl | ⟨⟨⟩⟩) | ⟨len, hlen, rfl⟩)
  · simp [exec, execHBlk, h]
  · simp [exec, execHFin, h, Nat.le_of_lt_succ hlen]

/-- No build (rule R280). -/
theorem exec_seq (h : s.sqb = false) : ∀ i ∈ ([.psFinish] : List Instr) ++
    (List.range 65).map Instr.psFeed, exec i s = .next (s.withErr .seq) := by
  simp only [List.mem_append, List.mem_cons, List.mem_map, List.mem_range, List.not_mem_nil]
  rintro i ((rfl | ⟨⟨⟩⟩) | ⟨len, hlen, rfl⟩)
  · simp [exec, execPsFinish, h]
  · simp [exec, execPsFeed, h, Nat.le_of_lt_succ hlen]

/-- No valid square (rule R280). -/
theorem exec_noSq (h : s.sqv = false) (row col : Nat) (c : Byte) :
    ∀ i ∈ ([.psLook row col, .psRlook c] : List Instr) ++ (List.range 65).map Instr.bfEnc ++
      (List.range 65).map Instr.bfDec, exec i s = .next (s.withErr .noSq) := by
  simp only [List.mem_append, List.mem_cons, List.mem_map, List.mem_range, List.not_mem_nil]
  rintro i (((rfl | rfl | ⟨⟨⟩⟩) | ⟨len, hlen, rfl⟩) | ⟨len, hlen, rfl⟩)
  · simp [exec, execPsLook, h]
  · simp [exec, execPsRlook, h]
  · simp [exec, execBfEnc, h, Nat.le_of_lt_succ hlen]
  · simp [exec, execBfDec, h, Nat.le_of_lt_succ hlen]

theorem inSquare_iff {sq : Vector Byte 25} {c : Byte} : inSquare sq c = true ↔ c ∈ sq.toList :=
  List.contains_iff_mem

/-- A byte outside the square fails the check of the whole chunk. -/
theorem all_inSquare_eq_false {sq : Vector Byte 25} {x : List Byte} (h : ∃ c ∈ x, c ∉ sq.toList) :
    x.all (inSquare sq) = false := by
  obtain ⟨c, hc, hsq⟩ := h
  exact List.all_eq_false.mpr ⟨c, hc, mt inSquare_iff.mp hsq⟩

/-- A coordinate outside the square (rule R280). -/
theorem exec_range (hv : s.sqv = true) {row col : Nat} (h : 5 ≤ row ∨ 5 ≤ col) :
    exec (.psLook row col) s = .next (s.withErr .range) := by
  have hrange : (decide (row < 5) && decide (col < 5)) = false := by simp; omega
  simp [exec, execPsLook, hv, hrange]

/-- A byte outside the square (rule R280). -/
theorem exec_psRlook_char (hv : s.sqv = true) {c : Byte} (h : c ∉ s.sq.toList) :
    exec (.psRlook c) s = .next (s.withErr .char) := by
  have hc : inSquare s.sq c = false := by simpa using mt inSquare_iff.mp h
  simp [exec, execPsRlook, hv, hc]

/-- A chunk with a byte outside the square (rule R280). -/
theorem exec_bifid_char (hv : s.sqv = true) {k : Nat} (hk : k ≤ 64)
    (h : ∃ c ∈ s.operand k, c ∉ s.sq.toList) :
    exec (.bfEnc k) s = .next (s.withErr .char) ∧ exec (.bfDec k) s = .next (s.withErr .char) := by
  have hall := all_inSquare_eq_false h
  simp [exec, execBfEnc, execBfDec, hv, hk, hall]

/-- An entry of a buffer, read with a default. -/
theorem vector_getD_eq_getElem {α : Type} {n : Nat} (v : Vector α n) (d : α) {k : Nat} (h : k < n) :
    v.getD k d = v[k] := by
  simp [Vector.getD, h]

/-- The cell of a row and column in range is an entry of SQ (rule R34). -/
theorem cell_eq_getElem (sq : Vector Byte 25) {row col : Nat} (hr : row < 5) (hc : col < 5) :
    cell sq row col = sq[5 * row + col] :=
  vector_getD_eq_getElem sq 0 (show 5 * row + col < 25 by omega)

/-! ### The statements -/

/-- Settles O7: the event is taken off the agenda, and retiring is what the engine adds to the command. -/
theorem stepRunsDecodedCommand : Obligations.StepRunsDecodedCommand := by
  intro s v i rest hpend hdecode _ hagenda
  obtain ⟨t, ht⟩ := exec_answers_next i { s with agenda := rest }
  refine ⟨t, ht, ?_⟩
  have hturn : step s = ({ s with agenda := rest } : State).engineTurn := by
    obtain h | ⟨h, rfl⟩ := hagenda
    · exact step_of_event h
    · rw [step_of_no_event h, ← h]
  rw [hturn, State.engineTurn_busy (s := { s with agenda := rest }) hpend,
    State.execWord_of_ok hdecode, ht]
  rfl

/-- Settles O8: the table word is the word of the command it decodes to, and the engine's event stands
first. -/
theorem fetchedWordRunsNext : Obligations.FetchedWordRunsNext := by
  intro s nbits w i hdecode
  have hok : decode (BitVec.ofNat 32 (w % 2 ^ nbits)) = .ok i := by
    unfold decodeTableWord at hdecode
    cases h : decode (BitVec.ofNat 32 (w % 2 ^ nbits)) with
    | error e => simp [h, Except.toOption] at hdecode
    | ok j => simpa [h, Except.toOption] using hdecode
  obtain ⟨hwf, hword⟩ := encode_of_decode hok
  rw [← hword] at hok
  rw [State.withFetchWord, ← hword]
  exact stepRunsDecodedCommand (s.withCommand (encode i)) (encode i) i s.agenda rfl hok hwf
    (.inl rfl)

/-- Settles O11: what a command answers, and the fields that are not its own. -/
theorem everyCommandAnswersNext : Obligations.EveryCommandAnswersNext := by
  intro i s
  obtain ⟨t, h⟩ := exec_answers_next i s
  exact ⟨t, h, exec_frame h⟩

/-- Settles O13: one lemma per flag; each error writes ERRCODE only. -/
theorem statePreconditionErrors : Obligations.StatePreconditionErrors := fun _ =>
  ⟨exec_noKey, exec_noIv, exec_noHash, exec_seq, exec_noSq⟩

/-- Settles O14: the checks of a valid square come after SQV, and the error writes ERRCODE only. -/
theorem squareDataErrors : Obligations.SquareDataErrors := fun _ hv =>
  ⟨fun _ _ => exec_range hv, fun _ => exec_psRlook_char hv, fun _ => exec_bifid_char hv⟩

/-- Settles O15: NOP is its success. -/
theorem nopWritesOnlyErrcode : Obligations.NopWritesOnlyErrcode := fun _ =>
  exec_of_admits (i := .nop) rfl

/-- Settles O16: ZEROIZE's writes are the reset values, its success writes ERRCODE 0x00. -/
theorem zeroizeClearsAllButCmdOvrSnap : Obligations.ZeroizeClearsAllButCmdOvrSnap := fun s =>
  exec_zeroize s

/-- Settles O19: CIV takes the 16 operand bytes. -/
theorem ofbIvLoadsTheChain : Obligations.OfbIvLoadsTheChain := fun s =>
  ⟨vecOfList 16 0 (s.operand 16), vecOfList_toList_of_eq (by simp),
    exec_of_admits (i := .ofbIv) rfl⟩

/-- Settles O26: the constants of the model are the words of rule R191. -/
theorem hInitStartsTheDigest : Obligations.HInitStartsTheDigest := fun _ =>
  exec_of_admits (i := .hInit) rfl

/-- Settles O30: PS_START has no check. -/
theorem psStartEmptiesTheSquare : Obligations.PsStartEmptiesTheSquare := fun _ =>
  exec_of_admits (i := .psStart) rfl

/-- Settles O33: the cell of a row and column in range is a byte of SQ. -/
theorem psLookReadsTheCell : Obligations.PsLookReadsTheCell := by
  intro s row col hr hc hv
  rw [exec_of_admits (by simp [State.admits, hv, hr, hc]), ← cell_eq_getElem s.sq hr hc]
  rfl

/-- Settles O55: a raised error writes none of the units, and of the successes each unit's own commands
alone write it. -/
theorem commandsWriteOnlyTheirUnit : Obligations.CommandsWriteOnlyTheirUnit := by
  intro i s t h hz
  obtain ⟨-, rfl⟩ | ⟨-, e, -, rfl⟩ := exec_eq_next h
  · exact ⟨fun h => effect_schedule hz h s, fun h => effect_stream hz h s,
      fun h => effect_digest hz h s, fun h => effect_square hz h s, fun h => effect_result hz h s,
      fun h => effect_output hz h s⟩
  · simp

end Sys2Proof.Machine
end

section
/-! PROOFS. One command of a host procedure: what LOADB leaves in DIN, and what `LOADB bytes; RUN i` answers
from an idle block (40_control.md section 2). -/

namespace Sys2Proof.Machine

variable {s : State} {i : Instr} {bytes : List Byte}

/-! ### LOADB -/

/-- Four bytes of a sequence are the bytes of its word (rules R14, R63). -/
theorem leBytes_leWord_getD (l : List Byte) (k : Nat) {m : Nat} (h : m < 4) :
    (leBytes (leWord l k)).getD m 0 = byteAt l (4 * k + m) := by
  rw [leWord, leBytes_le32]
  interval_cases m <;> rfl

/-- The first `n` writes of LOADB put the first `4 * n` bytes into DIN, and write no other register
(rule R99). -/
theorem State.runEvents_loadb (s : State) (bytes : List Byte) {n : Nat} (hn : n ≤ 16) :
    ∃ d rd, s.runEvents ((List.range n).map fun k => evWrite (offDin + 4 * k) (leWord bytes k)) =
        .next { s with din := d, rdata := rd } ∧
      ∀ j (h : j < 64), j < 4 * n → d[j] = byteAt bytes j := by
  induction n with
  | zero => exact ⟨s.din, s.rdata, rfl, fun _ _ hj => absurd hj (Nat.not_lt_zero _)⟩
  | succ n ih =>
    obtain ⟨d, rd, hrun, hd⟩ := ih (by omega)
    refine ⟨setBytes d (4 * n) (leBytes (leWord bytes n)), none, ?_, fun j h hj => ?_⟩
    · have hwrite := State.event_evWrite { s with din := d, rdata := rd } (off := 0x40 + 4 * n)
        (leWord bytes n) (by omega) (by omega)
      rw [State.serveWrite, State.writeReg_din _ _ (by omega)] at hwrite
      rw [List.range_succ, List.map_append, State.runEvents_append, hrun]
      simp only [List.map_cons, List.map_nil, State.runEvents, offDin, hwrite]
      rfl
    · rw [setBytes_getElem, leBytes_length]
      by_cases hnew : 4 * n ≤ j
      · obtain ⟨m, rfl⟩ := Nat.exists_eq_add_of_le hnew
        rw [if_pos (by omega), Nat.add_sub_cancel_left, leBytes_leWord_getD _ _ (by omega)]
      · rw [if_neg (by omega), hd j h (by omega)]

/-! ### Issuing a command -/

/-- The state after the CMD write of `i` with PEND empty (rule R66), as the host leaves it. -/
def State.accept (s : State) (i : Instr) : State :=
  { s with
    cmd := encode i, pend := some (encode i), snap := s.din, rdata := none
    ovr := if opField (encode i) = 0 then false else s.ovr }

/-- The CMD write of a command with PEND empty accepts it. -/
theorem State.event_accept (hidle : s.pend = none) (i : Instr) :
    s.event (evWrite offCmd (encode i)) = .next (s.accept i) := by
  refine (s.event_evWrite (off := 0x00) _ (by decide) rfl).trans ?_
  rw [State.serveWrite]
  exact congrArg (fun t : State => Host.Outcome.next { t with rdata := none })
    (State.writeReg_cmd_idle _ (State.busy_eq_false_iff.mpr hidle))

/-- An accepted command executes at its completion step and retires (rule R67). -/
theorem State.runEvents_evIssue (hidle : s.pend = none) (hwf : i.wellFormed = true) :
    s.runEvents (evIssue i) = retireResult (exec i (s.accept i)) := by
  have hexec : (s.accept i).event .engine = retireResult (exec i (s.accept i)) := by
    rw [State.event, State.engineTurn_busy (s := s.accept i) rfl,
      State.execWord_of_ok (decode_encode hwf)]
  obtain ⟨t, ht⟩ := exec_answers_next i (s.accept i)
  rw [ht] at hexec ⊢
  simp only [evIssue, State.runEvents, State.event_accept hidle, hexec]
  rfl

/-- `u` is the state in which a command issued in `s` executes: its operand bytes are `bytes`, and the
flags and the internal state are those of `s`. -/
structure IsIssue (s : State) (bytes : List Byte) (u : State) : Prop where
  operand : u.operand bytes.length = bytes
  ksv : u.ksv = s.ksv
  sched : u.sched = s.sched
  ivv : u.ivv = s.ivv
  civ : u.civ = s.civ
  hact : u.hact = s.hact
  h : u.h = s.h
  mlen : u.mlen = s.mlen
  sqb : u.sqb = s.sqb
  sqv : u.sqv = s.sqv
  sq : u.sq = s.sq
  sqn : u.sqn = s.sqn
  seen : u.seen = s.seen

/-- The leading bytes of a buffer that holds `bytes`. -/
theorem toList_take_eq {d : Vector Byte 64} (hlen : bytes.length ≤ 64)
    (hd : ∀ j (h : j < 64), j < bytes.length → d[j] = byteAt bytes j) :
    d.toList.take bytes.length = bytes := by
  refine List.ext_getElem (by simpa using hlen) fun j hj hj' => ?_
  rw [List.getElem_take, Vector.getElem_toList, hd j (by omega) hj', byteAt, List.getD_eq_getElem]

/-- The events of a command from an idle block: the command is accepted with its bytes in SNAP, executes
and retires (rules R66, R67, R100). -/
theorem State.runEvents_issue (hidle : s.pend = none) (hwf : i.wellFormed = true)
    (hlen : bytes.length ≤ 64) :
    ∃ u, IsIssue s bytes u ∧
      s.runEvents (evLoadb bytes ++ evIssue i) = retireResult (exec i u) := by
  obtain ⟨d, rd, hload, hd⟩ := s.runEvents_loadb bytes (n := (bytes.length + 3) / 4) (by omega)
  refine ⟨State.accept { s with din := d, rdata := rd } i,
    ⟨toList_take_eq hlen fun j h hj => hd j h (by omega), rfl, rfl, rfl, rfl, rfl, rfl, rfl, rfl,
      rfl, rfl, rfl, rfl⟩, ?_⟩
  rw [State.runEvents_append, evLoadb, hload]
  exact State.runEvents_evIssue hidle hwf

/-- A command of a host procedure from an idle block succeeds exactly when its checks pass on the issued
operands. -/
theorem State.runCommand_eq (hidle : s.pend = none) (hwf : i.wellFormed = true)
    (hlen : bytes.length ≤ 64) :
    ∃ u, IsIssue s bytes u ∧
      s.runCommand bytes i = if u.admits i then some (u.success i).retire else none := by
  obtain ⟨u, hu, hrun⟩ := State.runEvents_issue hidle hwf hlen
  refine ⟨u, hu, ?_⟩
  rw [State.runCommand, if_pos hwf, hrun]
  cases hc : u.admits i with
  | true =>
    rw [exec_of_admits hc]
    exact if_pos rfl
  | false =>
    obtain ⟨e, he, hexec⟩ := exec_of_not_admits hc
    rw [hexec]
    exact if_neg (mt ErrCode.code_eq_zero.mp he)

/-- A command whose checks pass on every issue of its operands. -/
theorem State.runCommand_of_admits (hidle : s.pend = none) (hwf : i.wellFormed = true)
    (hlen : bytes.length ≤ 64) (h : ∀ u, IsIssue s bytes u → u.admits i = true) :
    ∃ u, IsIssue s bytes u ∧ s.runCommand bytes i = some (u.success i).retire := by
  obtain ⟨u, hu, hrun⟩ := State.runCommand_eq hidle hwf hlen
  exact ⟨u, hu, by rw [hrun, if_pos (h u hu)]⟩

/-- READOUT sees the output of a command: what comes after `produce` leaves DOUT and OUTLEN. -/
theorem State.readout_eq_of_produce {t u : State} {out : List Byte} (hlen : out.length ≤ 64)
    (hdout : t.dout = (u.produce out).dout) (houtlen : t.outlen = (u.produce out).outlen) :
    t.readout = out := by
  rw [State.readout, hdout, houtlen]
  exact u.readout_produce hlen

end Sys2Proof.Machine
end

section
/-! PROOFS. The recurrences of the cipher: `keyExpand` and `blockTransform` follow those of rules R130 to
R132. With it the statements O17, O18 and O20 to O22 about single commands. -/

namespace Sys2Proof.Machine

/-! ### Iteration -/

/-- The last of n + 1 applications is the outermost one. -/
theorem iterate_succ {α : Type} (f : α → α) (n : Nat) (x : α) :
    iterate f (n + 1) x = f (iterate f n x) := by
  induction n generalizing x with
  | zero => rfl
  | succ n ih => exact ih (f x)

/-! ### The key schedule -/

/-- Word `k` of a buffer, 0 past its end: the arrays of the recurrences are functions of the index. -/
def wordAt {n : Nat} (v : Vector Word n) (k : Nat) : Word := v.getD k 0

theorem wordAt_eq_getElem {n : Nat} (v : Vector Word n) {k : Nat} (h : k < n) :
    wordAt v k = v[k] := vector_getD_eq_getElem v 0 h

theorem wordAt_set {n : Nat} (v : Vector Word n) (i : Fin n) (x : Word) {k : Nat} (h : k < n) :
    wordAt (v.set i x) k = if k = i.val then x else wordAt v k := by
  rw [wordAt_eq_getElem _ h, Vector.getElem_set, wordAt_eq_getElem _ h]
  simp only [eq_comm]

theorem wordAt_vecOfList {n : Nat} {l : List Word} (hl : l.length = n) {k : Nat} (h : k < n) :
    wordAt (vecOfList n 0 l) k = l.getD k 0 := by
  rw [wordAt_eq_getElem _ h, ← Vector.getElem_toList (by simpa using h),
    List.getD_eq_getElem _ _ (hl ▸ h)]
  congr 1
  exact vecOfList_toList_of_eq hl

theorem addQ_length (n : Nat) (x : Word) : (addQ n x).length = n := by
  induction n generalizing x with
  | zero => rfl
  | succ n ih => simp [addQ, ih]

/-- Each word of the progression is the one before it plus Q (rule R130). -/
theorem addQ_getD_succ (n : Nat) (x : Word) {k : Nat} (h : k + 1 < n) :
    (addQ n x).getD (k + 1) 0 = (addQ n x).getD k 0 + Config.keyQ := by
  induction n generalizing x k with
  | zero => omega
  | succ n ih =>
    cases k with
    | zero =>
      obtain ⟨m, rfl⟩ : ∃ m, n = m + 1 := ⟨n - 1, by omega⟩
      simp [addQ]
    | succ k => simpa [addQ] using ih (x + Config.keyQ) (by omega)

/-- The mixing after n iterations. -/
def mixAfter (key : List Byte) (n : Nat) : Mixing := iterate mixStep n (mixStart key)

theorem mixAfter_zero_S (key : List Byte) :
    (mixAfter key 0).S = vecOfList 44 0 (addQ 44 Config.keyP) := rfl

theorem mixAfter_succ (key : List Byte) (n : Nat) :
    mixAfter key (n + 1) = mixStep (mixAfter key n) := iterate_succ ..

/-- The indices after n iterations are n mod 44 and n mod 4 (rule R131). -/
theorem mixAfter_index (key : List Byte) (n : Nat) :
    (mixAfter key n).i.val = n % 44 ∧ (mixAfter key n).j.val = n % 4 := by
  induction n with
  | zero => exact ⟨rfl, rfl⟩
  | succ n ih =>
    rw [mixAfter_succ]
    simp only [mixStep, Fin.val_add, ih]
    constructor <;> simp [Nat.add_mod]

/-- The key schedule is the one of the recurrences (rules R130, R131). -/
theorem keyExpand_isKeyExpansion (key : List Byte) : IsKeyExpansion key (keyExpand key) := by
  refine ⟨fun n k => wordAt (mixAfter key n).S k, fun n k => wordAt (mixAfter key n).L k,
    fun n => (mixAfter key n).a, fun n => (mixAfter key n).b, ?_, fun i hi => ?_, fun j hj => ?_,
    rfl, rfl, fun n hn => ?_, fun k hk => (wordAt_eq_getElem _ hk).symm⟩
  · exact wordAt_vecOfList (addQ_length _ _) (by decide)
  · simp only [mixAfter_zero_S, wordAt_vecOfList (addQ_length _ _) (show i < 44 by omega),
      wordAt_vecOfList (addQ_length _ _) (show i + 1 < 44 by omega)]
    exact addQ_getD_succ 44 _ (by omega)
  · interval_cases j <;> rfl
  · obtain ⟨hi, hj⟩ := mixAfter_index key n
    have hS : (mixAfter key n).S[(mixAfter key n).i] = wordAt (mixAfter key n).S (n % 44) := by
      rw [← hi, wordAt_eq_getElem _ (mixAfter key n).i.isLt]; rfl
    have hL : (mixAfter key n).L[(mixAfter key n).j] = wordAt (mixAfter key n).L (n % 4) := by
      rw [← hj, wordAt_eq_getElem _ (mixAfter key n).j.isLt]; rfl
    simp only [mixAfter_succ, mixStep, hS, hL]
    refine ⟨trivial, trivial, fun k hk => ?_, fun k hk => ?_⟩
    · exact (wordAt_set _ _ _ hk).trans (by rw [hi])
    · exact (wordAt_set _ _ _ hk).trans (by rw [hj])

/-! ### The block transform -/

/-- The words after n rounds. -/
def roundsAfter (S : Vector Word 44) (blk : List Byte) (n : Nat) : BlockRegs :=
  (List.range' 1 n).foldl (blockRound S) (blockStart S blk)

theorem roundsAfter_succ (S : Vector Word 44) (blk : List Byte) (n : Nat) :
    roundsAfter S blk (n + 1) = blockRound S (roundsAfter S blk n) (n + 1) := by
  simp [roundsAfter, List.range'_concat, Nat.add_comm]

theorem schedWord_eq_getElem (S : Vector Word 44) {k : Nat} (h : k < 44) : schedWord S k = S[k] :=
  wordAt_eq_getElem S h

/-- The block transform is the one of the recurrence (rule R132). -/
theorem blockTransform_isBlockTransform (S : Vector Word 44) (blk : List Byte) :
    IsBlockTransform S blk (blockTransform S blk) := by
  refine ⟨fun n => (roundsAfter S blk n).A, fun n => (roundsAfter S blk n).B,
    fun n => (roundsAfter S blk n).C, fun n => (roundsAfter S blk n).D, rfl, ?_, rfl, ?_,
    fun n hn => ?_, ?_⟩
  · exact congrArg (leWord blk 1 + ·) (schedWord_eq_getElem S (by decide))
  · exact congrArg (leWord blk 3 + ·) (schedWord_eq_getElem S (by decide))
  · simp only [roundsAfter_succ, blockRound,
      schedWord_eq_getElem S (show 2 * (n + 1) < 44 by omega),
      schedWord_eq_getElem S (show 2 * (n + 1) + 1 < 44 by omega)]
    exact ⟨trivial, rfl, trivial, rfl⟩
  · rw [← schedWord_eq_getElem, ← schedWord_eq_getElem]
    rfl

/-! ### The statements on the block cipher -/

/-- Settles O17: BC_KEY has no check, and its expansion follows the recurrences. -/
theorem bcKeyExpandsTheKey : Obligations.BcKeyExpandsTheKey := fun s =>
  ⟨_, keyExpand_isKeyExpansion (s.operand 16), exec_of_admits (i := .bcKey) rfl⟩

/-- Settles O18: the transform follows the recurrence and fills 16 bytes. -/
theorem bcEncTransformsOneBlock : Obligations.BcEncTransformsOneBlock := fun s hk =>
  ⟨_, _, blockTransform_isBlockTransform s.sched (s.operand 16), blockTransform_length ..,
    s.produce_isOutput (by simp), exec_of_admits (i := .bcEnc) hk⟩

/-! ### The statements on the stream -/

/-- Settles O20: the keystream block is the transform of CIV, and goes to CIV. -/
theorem ofbBlkAdvancesTheChain : Obligations.OfbBlkAdvancesTheChain := by
  intro s hk hv
  have hciv : (vecOfList 16 0 s.keystream).toList = s.keystream :=
    vecOfList_toList_of_eq s.keystream_length
  refine ⟨vecOfList 16 0 s.keystream, (s.produce (xorBytes (s.operand 16) s.keystream)).dout, ?_,
    ?_, ?_⟩
  · rw [hciv]
    exact blockTransform_isBlockTransform s.sched s.civ.toList
  · rw [hciv]
    exact s.produce_isOutput (out := xorBytes (s.operand 16) s.keystream) (by simp)
  · have hlen : (xorBytes (s.operand 16) s.keystream).length = 16 := by simp
    rw [exec_of_admits (by simp [State.admits, hk, hv]), State.success, State.effect]
    simp only [State.produce, State.setCiv, State.withErr, hlen]
    rfl

/-- Settles O21: the padded bytes are 16, so that the keystream covers them. -/
theorem ofbEncFinPadsAndEndsTheStream : Obligations.OfbEncFinPadsAndEndsTheStream := by
  intro s n hn hk hv
  have hoperand : (s.operand n).length = n := by simp; omega
  have hpad : pkcsPad (s.operand n) =
      s.snap.toList.take n ++ List.replicate (16 - n) (BitVec.ofNat 8 (16 - n)) := by
    rw [pkcsPad, hoperand]
    rfl
  have hlen : (xorBytes (pkcsPad (s.operand n)) s.keystream).length = 16 := by
    rw [xorBytes_length, pkcsPad_length (by omega), State.keystream_length]
    rfl
  refine ⟨s.keystream, (s.produce (xorBytes (pkcsPad (s.operand n)) s.keystream)).dout,
    blockTransform_isBlockTransform s.sched s.civ.toList, ?_, ?_⟩
  · rw [← hpad]
    exact s.produce_isOutput (out := xorBytes (pkcsPad (s.operand n)) s.keystream) (by omega)
  · rw [exec_of_admits (by simp [State.admits, hk, hv, hn]), State.success, State.effect]
    simp only [State.produce, State.endStream, State.withErr, hlen]
    rfl

/-- A block ends with p bytes of value p exactly when p is its padding count and the padding is valid
(rule R167). -/
theorem padValid_iff {x : List Byte} {p : Nat} (h1 : 1 ≤ p) (h16 : p ≤ 16) :
    x.drop (16 - p) = List.replicate p (BitVec.ofNat 8 p) ↔ padValid x = true ∧ padCount x = p := by
  refine ⟨fun h => ?_, fun ⟨hvalid, hcount⟩ => ?_⟩
  · have hlast : byteAt x 15 = BitVec.ofNat 8 p := by
      have := congrArg (fun l : List Byte => l.getD (p - 1) 0) h
      simpa [byteAt, show 16 - p + (p - 1) = 15 by omega, show p - 1 < p by omega] using this
    have hcount : padCount x = p := by
      rw [padCount, hlast, BitVec.toNat_ofNat]
      omega
    exact ⟨by simp [padValid, hcount, h1, h16, h], hcount⟩
  · subst hcount
    simp only [padValid, Bool.and_eq_true, decide_eq_true_eq] at hvalid
    exact hvalid.2

/-- Valid padding has a count from 1 to 16. -/
theorem padCount_range {x : List Byte} (h : padValid x = true) :
    1 ≤ padCount x ∧ padCount x ≤ 16 := by
  simp only [padValid, Bool.and_eq_true, decide_eq_true_eq] at h
  exact h.1

/-- Bad padding (rule R280). -/
theorem exec_pad {s : State} (hk : s.ksv = true) (hv : s.ivv = true)
    (h : padValid (xorBytes (s.operand 16) s.keystream) = false) :
    exec .ofbDecFin s = .next (s.withErr .pad) := by
  simp [exec, execOfbDecFin, hk, hv, h]

/-- Settles O22: a p with p last bytes of value p is the padding count of X. -/
theorem ofbDecFinUnpadsOrRaisesPad : Obligations.OfbDecFinUnpadsOrRaisesPad := by
  intro s hk hv
  have hx : (xorBytes (s.operand 16) s.keystream).length = 16 := by simp
  refine ⟨s.keystream, xorBytes (s.operand 16) s.keystream,
    blockTransform_isBlockTransform s.sched s.civ.toList, rfl, fun p h1 h16 hp => ?_,
    fun hnone => ?_⟩
  · obtain ⟨hvalid, hcount⟩ := (padValid_iff h1 h16).mp hp
    have hunpad : pkcsUnpad (xorBytes (s.operand 16) s.keystream) =
        (xorBytes (s.operand 16) s.keystream).take (16 - p) := by rw [pkcsUnpad, hcount]
    have hlen : ((xorBytes (s.operand 16) s.keystream).take (16 - p)).length = 16 - p := by
      rw [List.length_take, hx]; omega
    refine ⟨(s.produce ((xorBytes (s.operand 16) s.keystream).take (16 - p))).dout,
      s.produce_isOutput (by omega), ?_⟩
    rw [exec_of_admits (by simp [State.admits, hk, hv, hvalid]), State.success, State.effect,
      hunpad]
    simp only [State.produce, State.endStream, State.withErr, hlen]
    rfl
  · have hvalid : padValid (xorBytes (s.operand 16) s.keystream) = false := by
      refine Bool.eq_false_iff.mpr fun h => hnone ?_
      obtain ⟨h1, h16⟩ := padCount_range h
      exact ⟨_, h1, h16, (padValid_iff h1 h16).mpr ⟨h, rfl⟩⟩
    exact exec_pad hk hv hvalid

end Sys2Proof.Machine
end

section
/-! PROOFS. The stream procedures of 40_control.md against the source's whole-message functions: O23, O24
and O25 of 42_stream_mode.md. -/

namespace Sys2Proof.Machine

variable {s t : State} {S : Vector Word 44} {c x : List Byte}

/-! ### The states of a stream -/

/-- An idle block with the key schedule `S`. -/
structure KeyReady (S : Vector Word 44) (s : State) : Prop where
  idle : s.pend = none
  ksv : s.ksv = true
  sched : s.sched = S

/-- An idle block with the key schedule `S` and a stream open at the chaining state `c`. -/
structure StreamAt (S : Vector Word 44) (c : List Byte) (s : State) : Prop
    extends KeyReady S s where
  ivv : s.ivv = true
  civ : s.civ.toList = c

/-- An issued command sees the stream's keystream block. -/
theorem StreamAt.keystream_eq {u : State} (h : StreamAt S c s) (hu : IsIssue s x u) :
    u.keystream = blockTransform S c := by
  rw [State.keystream, hu.sched, hu.civ, h.sched, h.civ]

theorem StreamAt.ksv_of_issue {u : State} (h : StreamAt S c s) (hu : IsIssue s x u) :
    u.ksv = true := hu.ksv.trans h.ksv

theorem StreamAt.ivv_of_issue {u : State} (h : StreamAt S c s) (hu : IsIssue s x u) :
    u.ivv = true := hu.ivv.trans h.ivv

/-! ### The commands of a stream -/

/-- Loading an IV opens the stream at it. -/
theorem KeyReady.runOfbIv (h : KeyReady S s) {iv : List Byte} (hiv : iv.length = 16) :
    ∃ t, s.runOfbIv iv = some t ∧ StreamAt S iv t := by
  obtain ⟨u, hu, hrun⟩ := State.runCommand_of_admits (i := .ofbIv) h.idle rfl
    (by omega : iv.length ≤ 64) fun _ _ => rfl
  refine ⟨_, (if_pos hiv).trans hrun, ⟨rfl, hu.ksv.trans h.ksv, hu.sched.trans h.sched⟩, rfl, ?_⟩
  exact (vecOfList_toList_of_eq (by simp)).trans (hiv ▸ hu.operand)

/-- One block of the stream, in either direction. -/
theorem StreamAt.runBlock (h : StreamAt S c s) (hx : x.length = 16) :
    ∃ t, s.runCommand x .ofbBlk = some t ∧ t.readout = xorBytes x (blockTransform S c) ∧
      StreamAt S (blockTransform S c) t := by
  obtain ⟨u, hu, hrun⟩ := State.runCommand_of_admits (i := .ofbBlk) h.idle rfl
    (by omega : x.length ≤ 64)
    fun u hu => by simp [State.admits, h.ksv_of_issue hu, h.ivv_of_issue hu]
  have hop : u.operand 16 = x := hx ▸ hu.operand
  have hksv := h.ksv_of_issue hu
  have hivv := h.ivv_of_issue hu
  refine ⟨_, hrun, ?_, ⟨rfl, hksv, hu.sched.trans h.sched⟩, hivv, ?_⟩
  · rw [← h.keystream_eq hu, ← hop]
    exact State.readout_eq_of_produce (u := u) (by simp) rfl rfl
  · exact (vecOfList_toList_of_eq u.keystream_length).trans (h.keystream_eq hu)

/-- The last bytes of a message are padded and encrypted. -/
theorem StreamAt.runEncFin (h : StreamAt S c s) (hx : x.length ≤ 15) :
    ∃ t, s.runCommand x (.ofbEncFin x.length) = some t ∧
      t.readout = xorBytes (pkcsPad x) (blockTransform S c) ∧ KeyReady S t := by
  obtain ⟨u, hu, hrun⟩ := State.runCommand_of_admits (i := .ofbEncFin x.length) h.idle
    (by simpa [Instr.wellFormed] using hx) (by omega : x.length ≤ 64)
    fun u hu => by simp [State.admits, hx, h.ksv_of_issue hu, h.ivv_of_issue hu]
  have hksv := h.ksv_of_issue hu
  refine ⟨_, hrun, ?_, rfl, hksv, hu.sched.trans h.sched⟩
  rw [← h.keystream_eq hu]
  rw [State.success, State.effect, hu.operand]
  exact State.readout_eq_of_produce (u := u) (by simp) rfl rfl

/-- The last block of a ciphertext is decrypted where its padding is valid, and fails elsewhere. -/
theorem StreamAt.runDecFin (h : StreamAt S c s) (hx : x.length = 16) :
    (s.runCommand x .ofbDecFin).map State.readout =
      if padValid (xorBytes x (blockTransform S c)) then
        some (pkcsUnpad (xorBytes x (blockTransform S c)))
      else none := by
  obtain ⟨u, hu, hrun⟩ :=
    State.runCommand_eq (i := .ofbDecFin) h.idle rfl (by omega : x.length ≤ 64)
  have hop : u.operand 16 = x := hx ▸ hu.operand
  rw [hrun, ← h.keystream_eq hu, ← hop]
  simp only [State.admits, h.ksv_of_issue hu, h.ivv_of_issue hu, Bool.true_and]
  split
  · refine congrArg some (State.readout_eq_of_produce (u := u) ?_ rfl rfl)
    have := pkcsUnpad_length_le (xorBytes (u.operand 16) u.keystream)
    omega
  · rfl

/-! ### The keystream of a whole message -/

/-- The chaining state after n blocks. -/
def chainAfter (S : Vector Word 44) : Nat → List Byte → List Byte
  | 0, c => c
  | n + 1, c => chainAfter S n (blockTransform S c)

@[simp] theorem keystreamFrom_length (S : Vector Word 44) (n : Nat) (c : List Byte) :
    (keystreamFrom S n c).length = 16 * n := by
  induction n generalizing c with
  | zero => rfl
  | succ n ih => simp [keystreamFrom, ih]; omega

/-- The last keystream block is the transform of the chaining state before it. -/
theorem keystreamFrom_succ (S : Vector Word 44) (n : Nat) (c : List Byte) :
    keystreamFrom S (n + 1) c = keystreamFrom S n c ++ blockTransform S (chainAfter S n c) := by
  induction n generalizing c with
  | zero => simp [keystreamFrom, chainAfter]
  | succ n ih =>
    rw [keystreamFrom, ih (blockTransform S c), keystreamFrom, chainAfter, List.append_assoc]

theorem xorBytes_append {x x' y y' : List Byte} (h : x.length = y.length) :
    xorBytes (x ++ x') (y ++ y') = xorBytes x y ++ xorBytes x' y' :=
  List.zipWith_append h

/-- The blocks of a text, one command each, give the text xor the keystream. -/
theorem StreamAt.runBlocks (h : StreamAt S c s) {n : Nat} {text : List Byte}
    (hlen : 16 * n ≤ text.length) :
    ∃ t, s.runOfbBlocks n text = some (xorBytes (text.take (16 * n)) (keystreamFrom S n c), t) ∧
      StreamAt S (chainAfter S n c) t := by
  induction n generalizing s c text with
  | zero => exact ⟨s, rfl, h⟩
  | succ n ih =>
    obtain ⟨t, hrun, hout, ht⟩ := h.runBlock (x := text.take 16) (by rw [List.length_take]; omega)
    obtain ⟨v, hrest, hv⟩ := ih ht (text := text.drop 16) (by rw [List.length_drop]; omega)
    refine ⟨v, ?_, hv⟩
    have hsplit : text.take (16 * (n + 1)) = text.take 16 ++ (text.drop 16).take (16 * n) := by
      rw [Nat.mul_add, Nat.add_comm, Nat.mul_one, List.take_add]
    rw [State.runOfbBlocks, hrun, hsplit, keystreamFrom, xorBytes_append, ← hout]
    · simp [hrest]
    · simp; omega

/-! ### Padding -/

/-- A message is padded in its last block alone (rules R166, R168). -/
theorem padMessage_eq (plain : List Byte) :
    padMessage plain = plain.take (16 * (plain.length / 16)) ++
      pkcsPad (plain.drop (16 * (plain.length / 16))) := by
  have hlen : (plain.drop (16 * (plain.length / 16))).length = plain.length % 16 := by
    rw [List.length_drop]; omega
  rw [padMessage, pkcsPad, hlen, ← List.append_assoc, List.take_append_drop]

theorem padMessage_length (plain : List Byte) :
    (padMessage plain).length = 16 * (plain.length / 16 + 1) := by
  simp [padMessage]; omega

/-- The last p bytes, p at most 16, are those of the last block. -/
theorem drop_length_sub_append (a : List Byte) (hx : x.length = 16) {p : Nat} (hp : p ≤ 16) :
    (a ++ x).drop ((a ++ x).length - p) = x.drop (16 - p) := by
  rw [List.length_append, hx, Nat.add_sub_assoc (n := a.length) hp, List.drop_length_add_append]

/-- What is left without the last p bytes, p at most 16. -/
theorem take_length_sub_append (a : List Byte) (hx : x.length = 16) {p : Nat} (hp : p ≤ 16) :
    (a ++ x).take ((a ++ x).length - p) = a ++ x.take (16 - p) := by
  rw [List.length_append, hx, Nat.add_sub_assoc (n := a.length) hp, List.take_length_add_append]

/-- The last byte is that of the last block. -/
theorem padCount_append (a : List Byte) (hx : x.length = 16) :
    (byteAt (a ++ x) ((a ++ x).length - 1)).toNat = padCount x := by
  rw [padCount, byteAt, byteAt, List.length_append, hx, List.getD_append_right _ _ _ _ (by omega)]
  congr 2
  omega

/-- The source's test of the padding is that of the last block (rules R167, R169). -/
theorem padValid_iff_append (a : List Byte) (hx : x.length = 16) :
    (1 ≤ padCount x ∧ padCount x ≤ 16 ∧
      (a ++ x).drop ((a ++ x).length - padCount x) =
        List.replicate (padCount x) (BitVec.ofNat 8 (padCount x))) ↔ padValid x = true := by
  refine ⟨fun ⟨h1, h16, hd⟩ => ?_, fun h => ?_⟩
  · exact ((padValid_iff h1 h16).mp ((drop_length_sub_append a hx h16).symm.trans hd)).1
  · obtain ⟨h1, h16⟩ := padCount_range h
    exact ⟨h1, h16, (drop_length_sub_append a hx h16).trans ((padValid_iff h1 h16).mpr ⟨h, rfl⟩)⟩

/-- Padding is removed from the last block alone (rules R167, R169). -/
theorem unpadMessage_append (a : List Byte) (hx : x.length = 16) :
    unpadMessage (a ++ x) = if padValid x then some (a ++ pkcsUnpad x) else none := by
  simp only [unpadMessage, padCount_append a hx, padValid_iff_append a hx]
  by_cases h : padValid x = true
  · rw [if_pos h, if_pos h, take_length_sub_append a hx (padCount_range h).2, pkcsUnpad]
  · rw [if_neg h, if_neg h]

/-- A padded block is valid and gives its bytes back (rules R166, R167). -/
theorem padValid_pkcsPad (hx : x.length ≤ 15) :
    padValid (pkcsPad x) = true ∧ pkcsUnpad (pkcsPad x) = x := by
  have hlast : (pkcsPad x).drop (16 - (16 - x.length)) =
      List.replicate (16 - x.length) (BitVec.ofNat 8 (16 - x.length)) := by
    rw [show 16 - (16 - x.length) = x.length by omega, pkcsPad, List.drop_left]
  obtain ⟨hvalid, hcount⟩ := (padValid_iff (by omega) (by omega)).mp hlast
  refine ⟨hvalid, ?_⟩
  rw [pkcsUnpad, hcount, show 16 - (16 - x.length) = x.length by omega, pkcsPad, List.take_left]

theorem unpadMessage_padMessage (plain : List Byte) :
    unpadMessage (padMessage plain) = some plain := by
  have hrest : (plain.drop (16 * (plain.length / 16))).length ≤ 15 := by
    rw [List.length_drop]; omega
  obtain ⟨hvalid, hunpad⟩ := padValid_pkcsPad hrest
  rw [padMessage_eq, unpadMessage_append _ (pkcsPad_length (by omega)), if_pos hvalid, hunpad,
    List.take_append_drop]

/-! ### The whole-message functions -/

theorem sourceEncrypt_length (S : Vector Word 44) (iv plain : List Byte) :
    (sourceEncrypt S iv plain).length = 16 * (plain.length / 16 + 1) := by
  rw [sourceEncrypt, xorBytes_length, padMessage_length, keystreamFrom_length, Nat.min_self]

/-- The source's decrypt undoes its encrypt (rules R168, R169). -/
theorem sourceDecrypt_sourceEncrypt (S : Vector Word 44) (iv plain : List Byte) :
    sourceDecrypt S iv (sourceEncrypt S iv plain) = some plain := by
  have hlen := sourceEncrypt_length S iv plain
  rw [sourceDecrypt, if_neg (by omega), hlen, Nat.mul_div_cancel_left _ (by decide), sourceEncrypt,
    xorBytes_xorBytes _ _ (by rw [padMessage_length, keystreamFrom_length]),
    unpadMessage_padMessage]

/-- The source's encrypt is that of the blocks and that of the padded rest. -/
theorem sourceEncrypt_eq (S : Vector Word 44) (iv plain : List Byte) :
    sourceEncrypt S iv plain =
      xorBytes (plain.take (16 * (plain.length / 16))) (keystreamFrom S (plain.length / 16) iv) ++
      xorBytes (pkcsPad (plain.drop (16 * (plain.length / 16))))
        (blockTransform S (chainAfter S (plain.length / 16) iv)) := by
  rw [sourceEncrypt, padMessage_eq, keystreamFrom_succ, xorBytes_append]
  rw [List.length_take, keystreamFrom_length]
  omega

/-- The encrypting procedure succeeds with the source's ciphertext and leaves the key. -/
theorem KeyReady.ofbEncrypt (h : KeyReady S s) {iv : List Byte} (hiv : iv.length = 16)
    (plain : List Byte) :
    ∃ t, s.ofbEncrypt iv plain = some (sourceEncrypt S iv plain, t) ∧ KeyReady S t := by
  obtain ⟨s1, hload, h1⟩ := h.runOfbIv hiv
  obtain ⟨s2, hblocks, h2⟩ := h1.runBlocks (n := plain.length / 16) (text := plain) (by omega)
  have hrest : (plain.drop (16 * (plain.length / 16))).length = plain.length % 16 := by
    rw [List.length_drop]; omega
  obtain ⟨s3, hfin, hout, h3⟩ :=
    h2.runEncFin (x := plain.drop (16 * (plain.length / 16))) (by omega)
  rw [hrest] at hfin
  refine ⟨s3, ?_, h3⟩
  simp [State.ofbEncrypt, hload, hblocks, hfin, hout, sourceEncrypt_eq]

/-- The decrypting procedure answers what the source's decrypt answers. -/
theorem KeyReady.ofbDecrypt (h : KeyReady S s) {iv : List Byte} (hiv : iv.length = 16)
    (cipher : List Byte) :
    (s.ofbDecrypt iv cipher).map Prod.fst = sourceDecrypt S iv cipher := by
  rw [State.ofbDecrypt, sourceDecrypt]
  split
  next => rfl
  next hlen =>
  obtain ⟨m, hm⟩ : ∃ m, cipher.length = 16 * (m + 1) := ⟨cipher.length / 16 - 1, by omega⟩
  have hblk : cipher.length / 16 = m + 1 := by omega
  have hdrop : cipher.length - 16 = 16 * m := by omega
  rw [hblk, hdrop, Nat.add_sub_cancel]
  have hlast : (cipher.drop (16 * m)).length = 16 := by rw [List.length_drop]; omega
  obtain ⟨s1, hload, h1⟩ := h.runOfbIv hiv
  obtain ⟨s2, hblocks, h2⟩ := h1.runBlocks (n := m) (text := cipher) (by omega)
  have hfin := h2.runDecFin hlast
  have hxor : xorBytes cipher (keystreamFrom S (m + 1) iv) =
      xorBytes (cipher.take (16 * m)) (keystreamFrom S m iv) ++
      xorBytes (cipher.drop (16 * m)) (blockTransform S (chainAfter S m iv)) := by
    conv_lhs => rw [← List.take_append_drop (16 * m) cipher]
    rw [keystreamFrom_succ, xorBytes_append]
    rw [List.length_take, keystreamFrom_length]
    omega
  rw [hxor, unpadMessage_append _ (by rw [xorBytes_length, hlast, blockTransform_length]; rfl)]
  cases hrun : s2.runCommand (cipher.drop (16 * m)) .ofbDecFin with
  | none =>
    rw [hrun] at hfin
    split at hfin
    next => simp at hfin
    next hbad => simp [hload, hblocks, hrun, hbad]
  | some s3 =>
    rw [hrun] at hfin
    split at hfin
    next hgood =>
      rw [if_pos hgood, ← Option.some.inj hfin]
      simp [hload, hblocks, hrun]
    next => simp at hfin

/-! ### The statements -/

/-- Settles O23: the blocks and the padded rest use the keystream in the message's order. -/
theorem ofbEncryptEqualsSource : Obligations.OfbEncryptEqualsSource := by
  intro s iv plain hidle hk hiv
  obtain ⟨t, hrun, -⟩ := KeyReady.ofbEncrypt ⟨hidle, hk, rfl⟩ hiv plain
  rw [hrun]
  rfl

/-- Settles O24: the last block alone decides on the padding. -/
theorem ofbDecryptEqualsSource : Obligations.OfbDecryptEqualsSource :=
  fun _ _ cipher hidle hk hiv => KeyReady.ofbDecrypt ⟨hidle, hk, rfl⟩ hiv cipher

/-- Settles O25: both procedures are the source's, and encrypting keeps the key. -/
theorem ofbRoundTripReturnsPlaintext : Obligations.OfbRoundTripReturnsPlaintext := by
  intro s iv plain hidle hk hiv
  obtain ⟨t, hrun, ht⟩ := KeyReady.ofbEncrypt ⟨hidle, hk, rfl⟩ hiv plain
  refine ⟨_, t, hrun, sourceEncrypt_length s.sched iv plain, ?_⟩
  have hdec := ht.ofbDecrypt hiv (sourceEncrypt s.sched iv plain)
  rw [sourceDecrypt_sourceEncrypt, Option.map_eq_some_iff] at hdec
  obtain ⟨⟨out, u⟩, hu, rfl⟩ := hdec
  exact ⟨u, hu⟩

end Sys2Proof.Machine
end

section
/-! PROOFS. The digest: `compress` follows the recurrences of rule R190, the padded tail is one or two
blocks, and the hashing procedure is the source's. With it the statements O27, O28 and O29 of
43_hash160.md. -/

namespace Sys2Proof.Machine

variable {s t : State}

/-! ### The compression -/

/-- The message schedule with its first `16 + n` words. -/
def scheduleAfter (M : List Byte) (n : Nat) : List Word :=
  iterate scheduleNext n ((List.range 16).map (beWord M))

theorem scheduleAfter_succ (M : List Byte) (n : Nat) :
    scheduleAfter M (n + 1) = scheduleNext (scheduleAfter M n) := iterate_succ ..

theorem scheduleAfter_length (M : List Byte) (n : Nat) : (scheduleAfter M n).length = 16 + n := by
  induction n with
  | zero => rfl
  | succ n ih => rw [scheduleAfter_succ, scheduleNext, List.length_append, ih]; rfl

/-- A word of the schedule stays as it is when further words follow. -/
theorem scheduleAfter_getD (M : List Byte) {n m t : Nat} (ht : t < 16 + n) (hnm : n ≤ m) :
    (scheduleAfter M m).getD t 0 = (scheduleAfter M n).getD t 0 := by
  induction m, hnm using Nat.le_induction with
  | base => rfl
  | succ m hnm ih =>
    rw [scheduleAfter_succ, scheduleNext, List.getD_append, ih]
    rw [scheduleAfter_length]
    omega

/-- The first 16 words of the schedule are the block's (rule R190). -/
theorem messageSchedule_of_lt (M : List Byte) {t : Nat} (ht : t < 16) :
    (messageSchedule M).getD t 0 = beWord M t := by
  refine (scheduleAfter_getD M (n := 0) (m := 64) ht (by decide)).trans ?_
  simp [scheduleAfter, iterate, List.getD_eq_getElem?_getD, ht]

/-- The later words of the schedule follow the recurrence (rule R190). -/
theorem messageSchedule_of_ge (M : List Byte) {t : Nat} (h16 : 16 ≤ t) (ht : t < 80) :
    (messageSchedule M).getD t 0 =
      rol ((messageSchedule M).getD (t - 3) 0 ^^^ (messageSchedule M).getD (t - 8) 0 ^^^
        (messageSchedule M).getD (t - 14) 0 ^^^ (messageSchedule M).getD (t - 16) 0) 1 := by
  obtain ⟨n, rfl⟩ := Nat.exists_eq_add_of_le h16
  have hold {k : Nat} (hk : k < 16 + n) :
      (messageSchedule M).getD k 0 = (scheduleAfter M n).getD k 0 :=
    scheduleAfter_getD M hk (m := 64) (by omega)
  have hnew : (messageSchedule M).getD (16 + n) 0 = (scheduleAfter M (n + 1)).getD (16 + n) 0 :=
    scheduleAfter_getD M (m := 64) (by omega) (by omega)
  rw [hnew, hold (by omega), hold (by omega), hold (by omega), hold (by omega), scheduleAfter_succ,
    scheduleNext, List.getD_append_right _ _ _ _ (by rw [scheduleAfter_length])]
  simp [scheduleAfter_length]

/-- The working words after n rounds. -/
def hashAfter (H : Vector Word 5) (M : List Byte) (n : Nat) : HashRegs :=
  (List.range n).foldl (hashRound (messageSchedule M)) ⟨H[0], H[1], H[2], H[3], H[4]⟩

theorem hashAfter_succ (H : Vector Word 5) (M : List Byte) (n : Nat) :
    hashAfter H M (n + 1) = hashRound (messageSchedule M) (hashAfter H M n) n := by
  simp [hashAfter, List.range_succ]

/-- The compression is the one of the recurrences (rule R190). -/
theorem compress_isCompression (H : Vector Word 5) (M : List Byte) :
    IsCompression H M (compress H M) := by
  refine ⟨fun t => (messageSchedule M).getD t 0, fun n => (hashAfter H M n).a,
    fun n => (hashAfter H M n).b, fun n => (hashAfter H M n).c, fun n => (hashAfter H M n).d,
    fun n => (hashAfter H M n).e, fun t => messageSchedule_of_lt M,
    fun t => messageSchedule_of_ge M,
    rfl, rfl, rfl, rfl, rfl, fun n _ => ?_, rfl, rfl, rfl, rfl, rfl⟩
  simp only [hashAfter_succ, hashRound]
  exact ⟨trivial, trivial, trivial, trivial, trivial⟩

/-! ### The tail -/

theorem tailZeros_of_le {n : Nat} (h : n ≤ 55) : tailZeros n = 55 - n := if_pos h

theorem tailZeros_of_gt {n : Nat} (h : 55 < n) : tailZeros n = 119 - n := if_neg (by omega)

/-- Up to 55 bytes the tail is one block (rule R197). -/
theorem hashTail_one {r : List Byte} {n : Nat} (hr : r.length = n) (h : n ≤ 55)
    (lbits : BitVec 64) :
    hashTail r lbits = r ++ 0x80 :: List.replicate (55 - n) 0 ++ beBytes64 lbits := by
  subst hr
  simp [hashTail, tailZeros_of_le h]

/-- From 56 bytes on the tail is two blocks: the bytes with 0x80 and zeros, and zeros with the bit length
(rule R197). -/
theorem hashTail_two {r : List Byte} {n : Nat} (hr : r.length = n) (h : 55 < n) (h63 : n ≤ 63)
    (lbits : BitVec 64) :
    hashTail r lbits = (r ++ 0x80 :: List.replicate (63 - n) 0) ++
      (List.replicate 56 0 ++ beBytes64 lbits) := by
  subst hr
  have hsplit : List.replicate (119 - r.length) (0 : Byte) =
      List.replicate (63 - r.length) 0 ++ List.replicate 56 0 := by
    rw [List.replicate_append_replicate]
    congr 1
    omega
  rw [hashTail, tailZeros_of_gt h, hsplit]
  simp only [List.append_assoc, List.cons_append, List.nil_append]

theorem absorbTail_one (H : Vector Word 5) {T : List Byte} (h : T.length = 64) :
    absorbTail H T = compress H T := by
  simp [absorbTail, h, List.take_of_length_le]

theorem absorbTail_two (H : Vector Word 5) {T U : List Byte} (hT : T.length = 64)
    (hU : U.length = 64) : absorbTail H (T ++ U) = compress (compress H T) U := by
  have hlen : (T ++ U).length = 128 := by rw [List.length_append, hT, hU]
  rw [absorbTail, if_pos hlen, ← hT, List.take_left, List.drop_left]

/-- The digest's five words, one after the other (rule R196). -/
theorem digestBytes_eq (G : Vector Word 5) :
    digestBytes G =
      beBytes G[0] ++ beBytes G[1] ++ beBytes G[2] ++ beBytes G[3] ++ beBytes G[4] := by
  have hlist : G.toList = [G[0], G[1], G[2], G[3], G[4]] := by
    refine List.ext_getElem (by simp) fun i hi _ => ?_
    have hi5 : i < 5 := by simpa using hi
    interval_cases i <;> simp
  simp [digestBytes, hlist]

/-- H_FIN's success, for the chaining words `G` that its tail gives. -/
theorem exec_hFin {n : Nat} (hn : n ≤ 63) (hact : s.hact = true) {G : Vector Word 5}
    (hG : absorbTail s.h (hashTail (s.operand n) (s.mlen + BitVec.ofNat 64 (8 * n))) = G) :
    ∃ D : Vector Byte 64,
      IsOutput (beBytes G[0] ++ beBytes G[1] ++ beBytes G[2] ++ beBytes G[3] ++ beBytes G[4]) D ∧
      exec (.hFin n) s = .next
        { s with
          dout := D, outlen := 20, h := Vector.replicate 5 0, mlen := 0, hact := false,
          errcode := 0x00 } := by
  refine ⟨(s.produce (digestBytes G)).dout, ?_, ?_⟩
  · rw [← digestBytes_eq]
    exact s.produce_isOutput (by simp)
  · rw [exec_of_admits (by simp [State.admits, hn, hact]), State.success, State.effect, hG]
    simp only [State.produce, State.withErr, digestBytes_length]
    rfl

/-! ### The hashing procedure -/

/-- The chaining words after n blocks of a text. -/
def absorbBlocks (H : Vector Word 5) : Nat → List Byte → Vector Word 5
  | 0, _ => H
  | n + 1, text => absorbBlocks (compress H (text.take 64)) n (text.drop 64)

theorem absorbBlocks_add (H : Vector Word 5) (n m : Nat) (text : List Byte) :
    absorbBlocks H (n + m) text = absorbBlocks (absorbBlocks H n text) m (text.drop (64 * n)) := by
  induction n generalizing H text with
  | zero => simp [absorbBlocks]
  | succ n ih =>
    rw [Nat.add_right_comm, absorbBlocks, ih, absorbBlocks, List.drop_drop,
      Nat.mul_add, Nat.add_comm 64]

/-- Bytes past the blocks do not matter. -/
theorem absorbBlocks_append (H : Vector Word 5) {n : Nat} {text : List Byte} (rest : List Byte)
    (h : 64 * n ≤ text.length) : absorbBlocks H n (text ++ rest) = absorbBlocks H n text := by
  induction n generalizing H text with
  | zero => rfl
  | succ n ih =>
    rw [absorbBlocks, absorbBlocks, List.take_append_of_le_length (by omega),
      List.drop_append_of_le_length (by omega), ih _ (by rw [List.length_drop]; omega)]

/-- A text of n whole blocks, cut and compressed in order. -/
theorem foldl_compress_piecesOf (H : Vector Word 5) {n fuel : Nat} {text : List Byte}
    (hlen : text.length = 64 * n) (hfuel : n ≤ fuel) :
    (piecesOf 64 fuel text).foldl compress H = absorbBlocks H n text := by
  induction n generalizing H fuel text with
  | zero =>
    obtain rfl := List.length_eq_zero_iff.mp hlen
    cases fuel <;> rfl
  | succ n ih =>
    obtain ⟨fuel, rfl⟩ : ∃ k, fuel = k + 1 := ⟨fuel - 1, by omega⟩
    have hne : text ≠ [] := by rintro rfl; simp at hlen
    rw [piecesOf, if_neg hne, List.foldl_cons, ih _ (by rw [List.length_drop]; omega) (by omega),
      absorbBlocks]

/-- The tail is absorbed as one or two blocks. -/
theorem absorbTail_eq_absorbBlocks (H : Vector Word 5) {T : List Byte} {k : Nat}
    (hT : T.length = 64 * k) (hk : k = 1 ∨ k = 2) : absorbTail H T = absorbBlocks H k T := by
  obtain rfl | rfl := hk
  · rw [absorbTail_one H hT, absorbBlocks, absorbBlocks, List.take_of_length_le hT.le]
  · rw [← List.take_append_drop 64 T,
      absorbTail_two H (by rw [List.length_take]; omega) (by rw [List.length_drop]; omega),
      List.take_append_drop, absorbBlocks, absorbBlocks, absorbBlocks,
      List.take_of_length_le (l := T.drop 64) (by rw [List.length_drop]; omega)]

/-- The zeros of the whole message's padding are those of its tail (rule R197). -/
theorem padForHash_eq (msg : List Byte) :
    padForHash msg = msg.take (64 * (msg.length / 64)) ++
      hashTail (msg.drop (64 * (msg.length / 64))) (BitVec.ofNat 64 (8 * msg.length)) := by
  have hrest : (msg.drop (64 * (msg.length / 64))).length = msg.length % 64 := by
    rw [List.length_drop]; omega
  have hzeros : tailZeros (msg.length % 64) = (119 - msg.length % 64) % 64 := by
    unfold tailZeros
    split <;> omega
  simp only [padForHash, hashTail, hrest, hzeros, ← List.append_assoc, List.take_append_drop]

/-- The source's digest is that of the whole blocks and of the tail (rule R198). -/
theorem sourceHash_eq (msg : List Byte) :
    sourceHash msg = digestBytes
      (absorbTail (absorbBlocks Config.hashInit (msg.length / 64) msg)
        (hashTail (msg.drop (64 * (msg.length / 64))) (BitVec.ofNat 64 (8 * msg.length)))) := by
  have hrest : (msg.drop (64 * (msg.length / 64))).length ≤ 63 := by
    rw [List.length_drop]; omega
  have hblocks : (msg.take (64 * (msg.length / 64))).length = 64 * (msg.length / 64) := by
    rw [List.length_take]; omega
  obtain ⟨k, hk, hT⟩ : ∃ k, (k = 1 ∨ k = 2) ∧ (hashTail (msg.drop (64 * (msg.length / 64)))
      (BitVec.ofNat 64 (8 * msg.length))).length = 64 * k := by
    rw [hashTail_length _ hrest]
    split
    · exact ⟨1, .inl rfl, rfl⟩
    · exact ⟨2, .inr rfl, rfl⟩
  have hlen : (padForHash msg).length = 64 * (msg.length / 64 + k) := by
    rw [padForHash_eq, List.length_append, hblocks, hT]
    omega
  have hmsg : absorbBlocks Config.hashInit (msg.length / 64) msg =
      absorbBlocks Config.hashInit (msg.length / 64) (msg.take (64 * (msg.length / 64))) := by
    rw [← absorbBlocks_append _ (msg.drop (64 * (msg.length / 64))) hblocks.ge,
      List.take_append_drop]
  rw [sourceHash, foldl_compress_piecesOf _ hlen (by omega), absorbBlocks_add, padForHash_eq,
    absorbBlocks_append _ _ hblocks.ge, hmsg, absorbTail_eq_absorbBlocks _ hT hk,
    List.drop_append_of_le_length hblocks.ge, List.drop_of_length_le hblocks.le, List.nil_append]

/-- An idle block with a digest in progress: the chaining words and the bits so far. -/
structure HashAt (H : Vector Word 5) (bits : BitVec 64) (s : State) : Prop where
  idle : s.pend = none
  hact : s.hact = true
  h : s.h = H
  mlen : s.mlen = bits

variable {H : Vector Word 5} {bits : BitVec 64} {x : List Byte}

/-- H_INIT starts the digest from any idle state. -/
theorem runCommand_hInit (hidle : s.pend = none) :
    ∃ t, s.runCommand [] .hInit = some t ∧ HashAt Config.hashInit 0 t := by
  obtain ⟨u, -, hrun⟩ := State.runCommand_of_admits (i := .hInit) (bytes := []) hidle rfl (by simp)
    fun _ _ => rfl
  exact ⟨_, hrun, rfl, rfl, rfl, rfl⟩

/-- One block of a message. -/
theorem HashAt.runBlock (h : HashAt H bits s) (hx : x.length = 64) :
    ∃ t, s.runCommand x .hBlk = some t ∧ HashAt (compress H x) (bits + 512) t := by
  obtain ⟨u, hu, hrun⟩ := State.runCommand_of_admits (i := .hBlk) h.idle rfl
    (by omega : x.length ≤ 64) fun u hu => hu.hact.trans h.hact
  have hop : u.operand 64 = x := hx ▸ hu.operand
  have hact : u.hact = true := hu.hact.trans h.hact
  refine ⟨_, hrun, rfl, hact, ?_, ?_⟩
  · rw [← hop, ← h.h, ← hu.h]
    rfl
  · rw [← h.mlen, ← hu.mlen]
    rfl

/-- The whole blocks of a message. -/
theorem HashAt.runBlocks (h : HashAt H bits s) {n : Nat} {text : List Byte}
    (hlen : 64 * n ≤ text.length) :
    ∃ t, s.runHashBlocks n text = some t ∧
      HashAt (absorbBlocks H n text) (bits + BitVec.ofNat 64 (512 * n)) t := by
  induction n generalizing s H bits text with
  | zero => exact ⟨s, rfl, by simpa [absorbBlocks] using h⟩
  | succ n ih =>
    obtain ⟨t, hrun, ht⟩ := h.runBlock (x := text.take 64) (by rw [List.length_take]; omega)
    obtain ⟨u, hrest, hu⟩ := ih ht (text := text.drop 64) (by rw [List.length_drop]; omega)
    refine ⟨u, by simp [State.runHashBlocks, hrun, hrest], ?_⟩
    have hbits : bits + BitVec.ofNat 64 (512 * (n + 1)) =
        bits + 512 + BitVec.ofNat 64 (512 * n) := by
      rw [Nat.mul_add, Nat.add_comm, BitVec.ofNat_add, ← BitVec.add_assoc]
      rfl
    rw [hbits]
    exact hu

/-- The last bytes of a message: the digest is read out. -/
theorem HashAt.runFin (h : HashAt H bits s) (hx : x.length ≤ 63) :
    ∃ t, s.runCommand x (.hFin x.length) = some t ∧
      t.readout =
        digestBytes (absorbTail H (hashTail x (bits + BitVec.ofNat 64 (8 * x.length)))) := by
  obtain ⟨u, hu, hrun⟩ := State.runCommand_of_admits (i := .hFin x.length) h.idle
    (by simpa [Instr.wellFormed] using hx) (by omega : x.length ≤ 64)
    fun u hu => by simp [State.admits, hx, hu.hact.trans h.hact]
  refine ⟨_, hrun, ?_⟩
  rw [State.success, State.effect, hu.operand, hu.h, hu.mlen, h.h, h.mlen]
  exact State.readout_eq_of_produce (u := u) (by simp) rfl rfl

/-- The hashing procedure reads out the source's digest. -/
theorem hashMessage_eq (hidle : s.pend = none) (msg : List Byte) :
    ∃ t, s.hashMessage msg = some (sourceHash msg, t) := by
  have hrest : (msg.drop (64 * (msg.length / 64))).length = msg.length % 64 := by
    rw [List.length_drop]; omega
  obtain ⟨s1, hinit, h1⟩ := runCommand_hInit hidle
  obtain ⟨s2, hblocks, h2⟩ := h1.runBlocks (n := msg.length / 64) (text := msg) (by omega)
  obtain ⟨s3, hfin, hout⟩ := h2.runFin (x := msg.drop (64 * (msg.length / 64))) (by omega)
  have hbits : (0 : BitVec 64) + BitVec.ofNat 64 (512 * (msg.length / 64)) +
      BitVec.ofNat 64 (8 * (msg.length % 64)) = BitVec.ofNat 64 (8 * msg.length) := by
    have hsum : 8 * msg.length = 512 * (msg.length / 64) + 8 * (msg.length % 64) := by omega
    rw [hsum, BitVec.ofNat_add]
    exact congrArg (· + _) (BitVec.zero_add _)
  rw [hrest] at hfin hout
  rw [hbits] at hout
  exact ⟨s3, by simp [State.hashMessage, hinit, hblocks, hfin, hout, sourceHash_eq]⟩

/-! ### The statements -/

/-- Settles O27: the operand of H_BLK is the whole of SNAP. -/
theorem hBlkAbsorbsOneBlock : Obligations.HBlkAbsorbsOneBlock := by
  intro s hact
  have hop : s.operand 64 = s.snap.toList := List.take_of_length_le (by simp)
  refine ⟨_, compress_isCompression s.h s.snap.toList, ?_⟩
  rw [exec_of_admits (i := .hBlk) hact, State.success, State.effect, hop]
  rfl

/-- Settles O28: the tail's blocks are compressed in order. -/
theorem hFinOutputsTheDigest : Obligations.HFinOutputsTheDigest := by
  intro s n hn hact r suffix
  have hr : r.length = n := by simp [r]; omega
  by_cases h : n ≤ 55
  · have htail := hashTail_one hr h (s.mlen + BitVec.ofNat 64 (8 * n))
    have hG := (congrArg (absorbTail s.h) htail).trans (absorbTail_one s.h (by simp [hr]; omega))
    obtain ⟨D, hD, hexec⟩ := exec_hFin hn hact hG
    refine ⟨s.h, _, D, ?_, hD, hexec⟩
    rw [if_pos h]
    exact compress_isCompression ..
  · have htail := hashTail_two hr (by omega) hn (s.mlen + BitVec.ofNat 64 (8 * n))
    have hG := (congrArg (absorbTail s.h) htail).trans
      (absorbTail_two s.h (by simp [hr]; omega) (by simp))
    obtain ⟨D, hD, hexec⟩ := exec_hFin hn hact hG
    refine ⟨compress s.h (r ++ 0x80 :: List.replicate (63 - n) 0), _, D, ?_, hD, hexec⟩
    rw [if_neg h]
    exact ⟨compress_isCompression .., compress_isCompression ..⟩

/-- Settles O29: the blocks and the tail are the source's pieces of the padded message. -/
theorem hashProcedureEqualsSource : Obligations.HashProcedureEqualsSource := by
  intro s msg hidle
  obtain ⟨t, hrun⟩ := hashMessage_eq hidle msg
  rw [hrun]
  rfl

end Sys2Proof.Machine
end

section
/-! PROOFS. The square: which letters a build holds after each byte, that PS_FEED and PS_FINISH follow
rules R223 and R224, that the reverse map inverts the square, and that the building procedure is the
source's. With it the statements O31, O32, O34 and O35 of 44_polybius.md. -/

namespace Sys2Proof.Machine

variable {s t u : State} {q : Square} {c : Byte} {L cs : List Byte}

/-! ### First occurrences -/

/-- A letter is added behind the others unless it is there already (rule R223). -/
def addNew (L : List Byte) (c : Byte) : List Byte := if c ∈ L then L else L ++ [c]

/-- The first occurrences, with one more entry at the end. -/
theorem dedupFirst_concat (A : List Byte) (c : Byte) :
    dedupFirst (A ++ [c]) = addNew (dedupFirst A) c := by
  induction A with
  | nil => rfl
  | cons a A ih =>
    rw [List.cons_append, dedupFirst, ih, dedupFirst]
    by_cases hca : c = a
    · subst hca
      by_cases hc : c ∈ dedupFirst A <;> simp [addNew, hc]
    · by_cases hc : c ∈ dedupFirst A <;> simp [addNew, hc, hca]

theorem foldl_addNew_dedupFirst (A cs : List Byte) :
    cs.foldl addNew (dedupFirst A) = dedupFirst (A ++ cs) := by
  induction cs generalizing A with
  | nil => simp
  | cons c cs ih => rw [List.foldl_cons, ← dedupFirst_concat, ih, List.append_assoc]; rfl

/-- Letters without repetition are their own first occurrences. -/
theorem dedupFirst_of_nodup (h : L.Nodup) : dedupFirst L = L := by
  induction L with
  | nil => rfl
  | cons a L ih =>
    obtain ⟨ha, hL⟩ := List.nodup_cons.mp h
    rw [dedupFirst, ih hL, List.filter_eq_self.mpr]
    intro x hx
    exact decide_eq_true (ne_of_mem_of_not_mem hx ha)

/-- Letters without repetition, added in order: those that are missing follow. -/
theorem foldl_addNew_of_nodup (h : cs.Nodup) (L : List Byte) :
    cs.foldl addNew L = L ++ cs.filter (fun c => c ∉ L) := by
  induction cs generalizing L with
  | nil => simp
  | cons c cs ih =>
    obtain ⟨hc, hcs⟩ := List.nodup_cons.mp h
    rw [List.foldl_cons, ih hcs]
    by_cases hL : c ∈ L
    · simp [addNew, hL]
    · have hfilter : cs.filter (fun x => x ∉ L ++ [c]) = cs.filter (fun x => x ∉ L) := by
        refine List.filter_congr fun x hx => ?_
        have hxc : x ≠ c := fun hxc => hc (hxc ▸ hx)
        simp [hxc]
      rw [addNew, if_neg hL, hfilter, List.filter_cons_of_pos (by simpa using hL),
        List.append_assoc]
      rfl

/-! ### What a build holds -/

theorem alpha25_nodup : Config.alpha25.Nodup := by decide

/-- SQ, SQN and SEEN of a build whose letters so far are `L`, in order (rules R34, R39). -/
structure Square.Holds (q : Square) (L : List Byte) : Prop where
  nodup : L.Nodup
  subset : ∀ c ∈ L, c ∈ Config.alpha25
  sqn : q.sqn = L.length
  cells : q.sq.toList = L ++ List.replicate (25 - L.length) 0
  hasSeen : ∀ c ∈ Config.alpha25, q.hasSeen c = decide (c ∈ L)

theorem length_le_of_nodup_subset (hnodup : L.Nodup) (hsub : ∀ c ∈ L, c ∈ Config.alpha25) :
    L.length ≤ 25 :=
  (List.subperm_of_subset hnodup hsub).length_le

theorem Square.Holds.length_le (h : q.Holds L) : L.length ≤ 25 :=
  length_le_of_nodup_subset h.nodup h.subset

/-- While a letter is missing there is a free cell. -/
theorem Square.Holds.length_lt (h : q.Holds L) (hc : c ∈ Config.alpha25) (hnew : c ∉ L) :
    L.length < 25 :=
  length_le_of_nodup_subset (List.nodup_cons.mpr ⟨hnew, h.nodup⟩)
    (List.forall_mem_cons.mpr ⟨hc, h.subset⟩)

/-- The next free cell takes the new letter. -/
theorem Square.Holds.cells_concat (h : q.Holds L) (hlt : L.length < 25) (c : Byte) :
    (q.sq.setIfInBounds q.sqn c).toList =
      (L ++ [c]) ++ List.replicate (25 - (L ++ [c]).length) 0 := by
  obtain ⟨k, hk⟩ : ∃ k, 25 - L.length = k + 1 := ⟨24 - L.length, by omega⟩
  have hk' : 25 - (L ++ [c]).length = k := by rw [List.length_append]; simp; omega
  rw [Vector.toList_setIfInBounds, h.cells, h.sqn, List.set_append_right _ _ le_rfl, hk, hk']
  simp [List.replicate_succ]

/-- SEEN gains the new letter alone. -/
theorem Square.Holds.hasSeen_concat (h : q.Holds L) (hc : c ∈ Config.alpha25) {d : Byte}
    (hd : d ∈ Config.alpha25) :
    (q.seen.setIfInBounds (alphaIndex c) true).getD (alphaIndex d) false =
      decide (d ∈ L ++ [c]) := by
  have hold := h.hasSeen d hd
  rw [Square.hasSeen, vector_getD_eq_getElem _ _ (alphaIndex_lt hd)] at hold
  rw [vector_getD_eq_getElem _ _ (alphaIndex_lt hd), Vector.getElem_setIfInBounds, hold]
  by_cases hcd : c = d
  · simp [hcd]
  · have hne : alphaIndex c ≠ alphaIndex d := mt (List.idxOf_inj hc).mp hcd
    simp [hne, Ne.symm hcd]

/-- Placing a letter of ALPHA25 adds it unless it is there (rules R223, R224). -/
theorem Square.Holds.place (h : q.Holds L) (hc : c ∈ Config.alpha25) :
    (q.place c).Holds (addNew L c) := by
  by_cases hL : c ∈ L
  · rw [Square.place_of_seen (by simpa [hL] using h.hasSeen c hc), addNew, if_pos hL]
    exact h
  · rw [Square.place_of_not_seen (by simpa [hL] using h.hasSeen c hc), addNew, if_neg hL]
    refine ⟨?_, ?_, ?_, h.cells_concat (h.length_lt hc hL) c, fun d hd => h.hasSeen_concat hc hd⟩
    · exact List.nodup_append_comm.mp (List.nodup_cons.mpr ⟨hL, h.nodup⟩)
    · simpa [or_imp, forall_and, hc] using h.subset
    · simp [h.sqn]

theorem Square.Holds.foldl_place (h : q.Holds L) (hcs : ∀ c ∈ cs, c ∈ Config.alpha25) :
    (cs.foldl Square.place q).Holds (cs.foldl addNew L) := by
  induction cs generalizing q L with
  | nil => exact h
  | cons c cs ih =>
    obtain ⟨hc, hcs⟩ := List.forall_mem_cons.mp hcs
    exact ih (h.place hc) hcs

/-- Feeding key bytes is placing the letters they become (rules R220, R223). -/
theorem Square.feed_eq_foldl_place (q : Square) (key : List Byte) :
    q.feed key = (key.filterMap keyLetter).foldl Square.place q := by
  induction key generalizing q with
  | nil => rfl
  | cons c key ih =>
    rw [Square.feed, List.foldl_cons]
    refine (ih (q.feedByte c)).trans ?_
    cases hc : keyLetter c <;> simp [Square.feedByte, hc]

/-- Feeding adds the first occurrences of the key's letters (rules R221, R223). -/
theorem Square.Holds.feed {A : List Byte} (h : q.Holds (dedupFirst A)) (key : List Byte) :
    (q.feed key).Holds (dedupFirst (A ++ key.filterMap keyLetter)) := by
  rw [Square.feed_eq_foldl_place, ← foldl_addNew_dedupFirst]
  refine h.foldl_place fun c hc => ?_
  obtain ⟨b, -, hb⟩ := List.mem_filterMap.mp hc
  exact keyLetter_mem_alpha25 hb

/-- Finishing adds the missing letters in ALPHA25 order (rule R224). -/
theorem Square.Holds.fill (h : q.Holds L) :
    q.fill.Holds (L ++ Config.alpha25.filter (fun c => c ∉ L)) := by
  rw [Square.fill, ← foldl_addNew_of_nodup alpha25_nodup]
  exact h.foldl_place fun c hc => hc

/-- The flag of the i-th square letter. -/
theorem Square.Holds.seen_getElem (h : q.Holds L) {i : Nat} (hi : i < 25) :
    q.seen[i] = decide (Config.alpha25.getD i 0 ∈ L) := by
  have hlt : i < Config.alpha25.length := hi
  have hmem : Config.alpha25.getD i 0 ∈ Config.alpha25 := by
    rw [List.getD_eq_getElem _ _ hlt]
    exact List.getElem_mem hlt
  have hidx : alphaIndex (Config.alpha25.getD i 0) = i := by
    rw [alphaIndex, List.getD_eq_getElem _ _ hlt, alpha25_nodup.idxOf_getElem]
  rw [← h.hasSeen _ hmem, Square.hasSeen, hidx, vector_getD_eq_getElem _ _ hi]

/-- A finished square holds every letter once (rule R39). -/
theorem fill_perm_alpha25 (hnodup : L.Nodup) (hsub : ∀ c ∈ L, c ∈ Config.alpha25) :
    (L ++ Config.alpha25.filter (fun c => c ∉ L)).Perm Config.alpha25 := by
  have hall : (L ++ Config.alpha25.filter (fun c => c ∉ L)).Nodup :=
    List.nodup_append.mpr ⟨hnodup, alpha25_nodup.filter _, by
      intro a ha b hb hab
      simp only [List.mem_filter, decide_eq_true_eq] at hb
      exact hb.2 (hab ▸ ha)⟩
  refine (List.perm_ext_iff_of_nodup hall alpha25_nodup).mpr fun c => ?_
  simp only [List.mem_append, List.mem_filter, decide_eq_true_eq]
  exact ⟨fun h => h.elim (hsub c) And.left, fun h => (em (c ∈ L)).imp_right fun hL => ⟨h, hL⟩⟩

/-- SQ, SQN and SEEN of a finished build (rule R224). -/
theorem Square.Holds.fill_eq (h : q.Holds L) :
    q.fill.sq.toList = L ++ Config.alpha25.filter (fun c => c ∉ L) ∧ q.fill.sqn = 25 ∧
      q.fill.seen = Vector.replicate 25 true := by
  have hperm := fill_perm_alpha25 h.nodup h.subset
  have hlen : (L ++ Config.alpha25.filter (fun c => c ∉ L)).length = 25 := hperm.length_eq
  refine ⟨?_, h.fill.sqn.trans hlen, Vector.ext fun i hi => ?_⟩
  · rw [h.fill.cells, hlen, Nat.sub_self, List.replicate_zero, List.append_nil]
  · rw [h.fill.seen_getElem hi, Vector.getElem_replicate, decide_eq_true_eq]
    refine hperm.mem_iff.mpr ?_
    rw [List.getD_eq_getElem _ _ hi]
    exact List.getElem_mem _

/-- The filled cells of a build are its letters. -/
theorem Square.Holds.filled_eq (h : s.square.Holds L) : s.filled = L := by
  have hsqn : s.sqn = L.length := h.sqn
  have hcells : s.sq.toList = L ++ List.replicate (25 - L.length) 0 := h.cells
  rw [State.filled, hcells, hsqn, List.take_left]

/-- The clause of the engine invariants on a build (rule R39) says what the build holds. -/
theorem square_holds_iff :
    s.square.Holds s.filled ↔
      s.sqn ≤ 25 ∧ s.filled.Nodup ∧ (∀ c ∈ s.filled, c ∈ Config.alpha25) ∧
      (∀ c ∈ Config.alpha25, s.seen.getD (alphaIndex c) false = decide (c ∈ s.filled)) ∧
      s.sq.toList.drop s.sqn = List.replicate (25 - s.sqn) 0 := by
  refine ⟨fun h => ?_, fun ⟨hsqn, hnodup, hsub, hseen, hzeros⟩ => ?_⟩
  · have hsqn : s.sqn = s.filled.length := h.sqn
    have hcells : s.sq.toList = s.filled ++ List.replicate (25 - s.filled.length) 0 := h.cells
    refine ⟨hsqn ▸ h.length_le, h.nodup, h.subset, h.hasSeen, ?_⟩
    rw [hcells, hsqn, List.drop_left]
  · have hlen : s.filled.length = s.sqn := by simp [State.filled]; omega
    refine ⟨hnodup, hsub, hlen.symm, ?_, hseen⟩
    rw [hlen, ← hzeros]
    exact (List.take_append_drop _ _).symm

theorem State.EngineInv.building (h : s.EngineInv) (hb : s.sqb = true) :
    s.square.Holds s.filled := by
  obtain ⟨-, -, hbuild, -⟩ := h
  exact square_holds_iff.mpr (hbuild hb)

/-- A valid square is a permutation of ALPHA25 (rule R39). -/
theorem State.EngineInv.perm (h : s.EngineInv) (hv : s.sqv = true) :
    s.sq.toList.Perm Config.alpha25 := by
  obtain ⟨-, hvalid, -⟩ := h
  exact (hvalid hv).2

/-! ### The reverse map -/

/-- Where each letter stands once, the reverse map finds the cell (rule R225). -/
theorem coordOf_cell {sq : Vector Byte 25} (h : sq.toList.Nodup) {row col : Nat} (hr : row < 5)
    (hc : col < 5) : coordOf sq (cell sq row col) = (row, col) := by
  have hlt : 5 * row + col < sq.toList.length := by simp; omega
  have hidx : sq.toList.idxOf (cell sq row col) = 5 * row + col := by
    rw [cell_eq_getElem sq hr hc, ← Vector.getElem_toList hlt, h.idxOf_getElem]
  rw [coordOf, hidx]
  exact Prod.ext (by simp; omega) (by simp; omega)

theorem cell_mem {sq : Vector Byte 25} {row col : Nat} (hr : row < 5) (hc : col < 5) :
    cell sq row col ∈ sq.toList := by
  rw [cell_eq_getElem sq hr hc]
  simp

/-- RESULT of PS_RLOOK: `row << 4 | col` (rule R227). -/
theorem rlook_result {row col : Nat} (hr : row < 5) (hc : col < 5) :
    (BitVec.ofNat 32 row <<< 4) ||| BitVec.ofNat 32 col = BitVec.ofNat 32 (16 * row + col) := by
  interval_cases row <;> interval_cases col <;> rfl

/-! ### The building procedure -/

/-- An idle block with a build that holds the first occurrences of `A`. -/
structure Building (A : List Byte) (s : State) : Prop where
  idle : s.pend = none
  sqb : s.sqb = true
  holds : s.square.Holds (dedupFirst A)

theorem IsIssue.square {bytes : List Byte} (h : IsIssue s bytes u) : u.square = s.square := by
  rw [State.square, h.sq, h.sqn, h.seen]
  rfl

/-- An empty build (rule R222). -/
theorem emptySquare_holds :
    Square.Holds ⟨Vector.replicate 25 0, 0, Vector.replicate 25 false⟩ [] := by
  refine ⟨List.nodup_nil, nofun, rfl, rfl, fun c hc => ?_⟩
  rw [Square.hasSeen, vector_getD_eq_getElem _ _ (alphaIndex_lt hc), Vector.getElem_replicate]
  rfl

/-- PS_START starts an empty build from any idle state. -/
theorem runCommand_psStart (hidle : s.pend = none) :
    ∃ t, s.runCommand [] .psStart = some t ∧ Building [] t := by
  obtain ⟨u, -, hrun⟩ := State.runCommand_of_admits (i := .psStart) (bytes := []) hidle rfl
    (by simp) fun _ _ => rfl
  exact ⟨_, hrun, rfl, rfl, emptySquare_holds⟩

/-- One piece of a key. -/
theorem Building.runFeed {A p : List Byte} (h : Building A s) (hp : p.length ≤ 64) :
    ∃ t, s.runCommand p (.psFeed p.length) = some t ∧ Building (A ++ p.filterMap keyLetter) t := by
  obtain ⟨u, hu, hrun⟩ := State.runCommand_of_admits (i := .psFeed p.length) h.idle
    (by simpa [Instr.wellFormed] using hp) hp
    fun u hu => by simp [State.admits, hp, hu.sqb.trans h.sqb]
  have hsqb : u.sqb = true := hu.sqb.trans h.sqb
  refine ⟨_, hrun, rfl, hsqb, ?_⟩
  have hfeed := h.holds.feed p
  rw [← hu.square] at hfeed
  rw [State.success, State.effect, hu.operand]
  exact hfeed

/-- The pieces of a key, one after the other. -/
theorem Building.runFeeds {A : List Byte} {ps : List (List Byte)} (h : Building A s)
    (hps : ∀ p ∈ ps, p.length ≤ 64) :
    ∃ t, s.runFeeds ps = some t ∧ Building (A ++ ps.flatten.filterMap keyLetter) t := by
  induction ps generalizing s A with
  | nil => exact ⟨s, rfl, by simpa using h⟩
  | cons p ps ih =>
    obtain ⟨hp, hps⟩ := List.forall_mem_cons.mp hps
    obtain ⟨t, hrun, ht⟩ := h.runFeed hp
    obtain ⟨v, hrest, hv⟩ := ih ht hps
    refine ⟨v, by simp [State.runFeeds, hrun, hrest], ?_⟩
    rw [List.flatten_cons, List.filterMap_append, ← List.append_assoc]
    exact hv

/-- The build is finished, and the square is valid. -/
theorem Building.runFinish {A : List Byte} (h : Building A s) :
    ∃ t, s.runCommand [] .psFinish = some t ∧
      t.sq.toList = dedupFirst A ++ Config.alpha25.filter (fun c => c ∉ dedupFirst A) ∧
      t.sqv = true ∧ t.sqb = false ∧ t.sqn = 25 := by
  obtain ⟨u, hu, hrun⟩ := State.runCommand_of_admits (i := .psFinish) (bytes := []) h.idle rfl
    (by simp) fun u hu => hu.sqb.trans h.sqb
  obtain ⟨hcells, hsqn, -⟩ := h.holds.fill_eq
  rw [← hu.square] at hcells hsqn
  refine ⟨_, hrun, ?_, ?_, ?_, ?_⟩ <;> simp [State.success, State.effect, hcells, hsqn]

/-- The building procedure on a key in pieces (rule R228). -/
theorem buildSquareFrom_eq (hidle : s.pend = none) {ps : List (List Byte)}
    (hps : ∀ p ∈ ps, p.length ≤ 64) :
    ∃ t, s.buildSquareFrom ps = some t ∧ t.sq.toList = sourceSquare ps.flatten ∧
      t.sqv = true ∧ t.sqb = false ∧ t.sqn = 25 := by
  obtain ⟨s1, hstart, h1⟩ := runCommand_psStart hidle
  obtain ⟨s2, hfeeds, h2⟩ := h1.runFeeds hps
  obtain ⟨t, hfin, ht⟩ := h2.runFinish
  exact ⟨t, by simp [State.buildSquareFrom, hstart, hfeeds, hfin], ht⟩

/-! ### The statements -/

/-- Settles O31: the build holds the first occurrences of its letters and of the key's. -/
theorem psFeedAddsNewLetters : Obligations.PsFeedAddsNewLetters := by
  intro s n hinv hb hn letters
  have hbuild := hinv.building hb
  rw [← dedupFirst_of_nodup hbuild.nodup] at hbuild
  have hfeed : (s.square.feed (s.operand n)).Holds letters := hbuild.feed (s.operand n)
  refine ⟨_, _, hfeed.length_le, hfeed.cells, fun i hi => hfeed.seen_getElem hi, ?_⟩
  rw [exec_of_admits (by simp [State.admits, hn, hb]), ← hfeed.sqn]
  rfl

/-- What PS_FINISH writes, for any square: so that the letters of ALPHA25 are not placed one by one. -/
theorem finishBuild_eq (s : State) (q : Square) :
    ({ s.setSquare q with sqb := false, sqv := true } : State).withErr .ok =
      { s with
        sq := q.sq, sqn := q.sqn, seen := q.seen, sqb := false, sqv := true
        errcode := 0x00 } := rfl

/-- Settles O32: the missing letters fill the square. -/
theorem psFinishCompletesTheSquare : Obligations.PsFinishCompletesTheSquare := by
  intro s hinv hb
  obtain ⟨hcells, hsqn, hseen⟩ := (hinv.building hb).fill_eq
  refine ⟨s.square.fill.sq, hcells, ?_⟩
  rw [exec_of_admits (i := .psFinish) hb, State.success, State.effect, finishBuild_eq, hsqn, hseen]

/-- Settles O34: the letters of a valid square are all different. -/
theorem psRlookInvertsTheSquare : Obligations.PsRlookInvertsTheSquare := by
  intro s row col hr hc hinv hv
  have hnodup : s.sq.toList.Nodup := (hinv.perm hv).nodup_iff.mpr alpha25_nodup
  have hmem : inSquare s.sq (cell s.sq row col) = true := inSquare_iff.mpr (cell_mem hr hc)
  rw [← cell_eq_getElem s.sq hr hc, exec_of_admits (by simp [State.admits, hv, hmem]),
    State.success, State.effect, coordOf_cell hnodup hr hc, rlook_result hr hc]
  rfl

/-- Settles O35: a key's letters come in the same order in pieces as whole, and the procedure's own
pieces joined are the key. -/
theorem squareProcedureEqualsSource : Obligations.SquareProcedureEqualsSource := by
  refine ⟨fun s ps hidle hps => buildSquareFrom_eq hidle hps, fun s key hidle => ?_⟩
  have hbuild := buildSquareFrom_eq hidle (ps := piecesOf 64 key.length key)
    fun p hp => length_le_of_mem_piecesOf hp
  rwa [piecesOf_flatten (by decide) le_rfl] at hbuild

end Sys2Proof.Machine
end

section
/-! PROOFS. The text filter and the chunk transforms: what they put out, that BF_DEC undoes BF_ENC, and
that the text procedures return the filtered text. With it the statements O36 to O40 of 45_bifid.md. -/

namespace Sys2Proof.Machine

variable {s t u : State} {Q : Vector Byte 25} {c : Byte} {x y : List Byte}

/-! ### The text filter -/

/-- Upper-casing by the codes of a to z (rule R220). -/
theorem upcaseByte_eq (c : Byte) :
    upcaseByte c =
      if 0x61 ≤ c.toNat ∧ c.toNat ≤ 0x7A then BitVec.ofNat 8 (c.toNat - 0x20) else c := by
  have hlow : (0x61 : Byte) ≤ c ↔ 0x61 ≤ c.toNat := Iff.rfl
  have hhigh : c ≤ (0x7A : Byte) ↔ c.toNat ≤ 0x7A := Iff.rfl
  simp only [upcaseByte, hlow, hhigh]
  split
  next h =>
    refine BitVec.eq_of_toNat_eq ?_
    rw [BitVec.toNat_sub_of_le (by bv_omega), BitVec.toNat_ofNat]
    have := c.isLt
    simp
    omega
  next => rfl

/-- The filter of a byte: map it, and keep it if it is a letter (rule R250). -/
theorem filterByte_eq (upcase foldj : Bool) (c : Byte) :
    filterByte upcase foldj c =
      (some (if foldj then foldJByte (if upcase then upcaseByte c else c)
        else if upcase then upcaseByte c else c)).filter isLetter := by
  simp only [filterByte, Option.filter]

/-- Keeping what `p` admits of the mapped entries. -/
theorem filterMap_eq_filter_map {α β : Type} (g : α → β) (p : β → Bool) (l : List α) :
    l.filterMap (fun a => (some (g a)).filter p) = (l.map g).filter p := by
  induction l with
  | nil => rfl
  | cons a l ih => cases h : p (g a) <;> simp [Option.filter, h, ← ih]

/-- The filter of a text, mapped first and then thinned out (rule R250). -/
theorem filterText_eq (upcase foldj : Bool) (text : List Byte) :
    filterText upcase foldj text =
      (text.map fun c =>
        let c := if upcase ∧ 0x61 ≤ c.toNat ∧ c.toNat ≤ 0x7A then BitVec.ofNat 8 (c.toNat - 0x20)
          else c
        if foldj ∧ c = 0x4A then 0x49 else c).filter
          fun c => 0x41 ≤ c.toNat ∧ c.toNat ≤ 0x5A := by
  refine (congrArg (text.filterMap ·) (funext (filterByte_eq upcase foldj))).trans ?_
  rw [filterMap_eq_filter_map]
  congr 1
  refine List.map_congr_left fun c _ => ?_
  cases upcase <;> cases foldj <;> simp [foldJByte, upcaseByte_eq]

theorem filterText_flatten (upcase foldj : Bool) (ps : List (List Byte)) :
    (ps.map (filterText upcase foldj)).flatten = filterText upcase foldj ps.flatten := by
  induction ps with
  | nil => rfl
  | cons p ps ih =>
    rw [List.map_cons, List.flatten_cons, ih, List.flatten_cons]
    exact List.filterMap_append.symm

/-- The filter keeps square letters as they are (rules R18, R250). -/
theorem filterText_of_alpha25 (upcase foldj : Bool) (h : ∀ c ∈ x, c ∈ Config.alpha25) :
    filterText upcase foldj x = x := by
  have hkeep : ∀ c ∈ Config.alpha25, filterByte upcase foldj c = some c := by
    cases upcase <;> cases foldj <;> decide
  rw [filterText, List.filterMap_congr fun c hc => hkeep c (h c hc), List.filterMap_some]

/-- Upper-casing and folding leave square letters only (rules R220, R250). -/
theorem filterText_subset (text : List Byte) :
    ∀ c ∈ filterText true true text, c ∈ Config.alpha25 := by
  intro c hc
  obtain ⟨b, -, hb⟩ := List.mem_filterMap.mp hc
  exact keyLetter_mem_alpha25 hb

/-! ### The chunk transforms -/

theorem cell_eq_getD (Q : Vector Byte 25) (row col : Nat) :
    cell Q row col = Q.toList.getD (5 * row + col) 0 := by
  by_cases h : 5 * row + col < 25
  · rw [cell, vector_getD_eq_getElem _ _ h, List.getD_eq_getElem _ _ (by simpa using h),
      Vector.getElem_toList]
  · rw [List.getD_eq_default _ _ (by simpa using h)]
    simp [cell, Vector.getD, h]

/-- Entry i of the cells at the pairs of a sequence is the cell at its entries 2i and 2i + 1
(rule R252). -/
theorem cellsOfPairs_getD (Q : Vector Byte 25) :
    ∀ (l : List Nat) (i : Nat), 2 * i + 1 < l.length →
      (cellsOfPairs Q l).getD i 0 = cell Q (l.getD (2 * i) 0) (l.getD (2 * i + 1) 0)
  | [], _, h | [_], _, h => by simp at h
  | _ :: _ :: _, 0, _ => rfl
  | _ :: _ :: rest, i + 1, h =>
    cellsOfPairs_getD Q rest i (by simp only [List.length_cons] at h; omega)

/-- The cells of coordinates are letters of the square. -/
theorem mem_of_mem_cellsOfPairs (Q : Vector Byte 25) :
    ∀ (l : List Nat), (∀ n ∈ l, n < 5) → ∀ c ∈ cellsOfPairs Q l, c ∈ Q.toList
  | [], _, _, hc | [_], _, _, hc => by simp [cellsOfPairs] at hc
  | row :: col :: rest, h, c, hc => by
    obtain ⟨hrow, hcol, hrest⟩ : row < 5 ∧ col < 5 ∧ ∀ n ∈ rest, n < 5 := by simpa using h
    rcases List.mem_cons.mp hc with rfl | hc
    · exact cell_mem hrow hcol
    · exact mem_of_mem_cellsOfPairs Q rest hrest c hc

/-- The flattened coordinates of the cells at pairs are the pairs (rules R225, R253). -/
theorem flatCoords_cellsOfPairs (hQ : Q.toList.Nodup) :
    ∀ (l : List Nat), (∀ n ∈ l, n < 5) → l.length % 2 = 0 → flatCoords Q (cellsOfPairs Q l) = l
  | [], _, _ => rfl
  | [_], _, h => by simp at h
  | row :: col :: rest, h, hlen => by
    obtain ⟨hrow, hcol, hrest⟩ : row < 5 ∧ col < 5 ∧ ∀ n ∈ rest, n < 5 := by simpa using h
    have ih := flatCoords_cellsOfPairs hQ rest hrest
      (by simp only [List.length_cons] at hlen; omega)
    rw [flatCoords] at ih
    rw [cellsOfPairs, flatCoords, List.flatMap_cons, ih, coordOf_cell hQ hrow hcol]
    rfl

/-- The coordinates that BF_ENC reads in pairs: the rows, then the columns (rule R252). -/
def rowsThenCols (Q : Vector Byte 25) (x : List Byte) : List Nat :=
  x.map (fun c => (coordOf Q c).1) ++ x.map (fun c => (coordOf Q c).2)

theorem rowsThenCols_length (Q : Vector Byte 25) (x : List Byte) :
    (rowsThenCols Q x).length = 2 * x.length := by
  simp [rowsThenCols]
  omega

theorem rowsThenCols_lt (hx : ∀ c ∈ x, c ∈ Q.toList) : ∀ n ∈ rowsThenCols Q x, n < 5 := by
  intro n hn
  rcases List.mem_append.mp hn with h | h <;> obtain ⟨c, hc, rfl⟩ := List.mem_map.mp h
  · exact (coordOf_spec (hx c hc)).1
  · exact (coordOf_spec (hx c hc)).2.1

/-- BF_ENC puts out letters of the square. -/
theorem bifidEncrypt_subset (hx : ∀ c ∈ x, c ∈ Q.toList) :
    ∀ c ∈ bifidEncrypt Q x, c ∈ Q.toList :=
  mem_of_mem_cellsOfPairs Q _ (rowsThenCols_lt hx)

/-- BF_DEC's transform undoes BF_ENC's: the halves of the flattened coordinates are the rows and the
columns again. -/
theorem bifidDecrypt_bifidEncrypt (hQ : Q.toList.Nodup) (hx : ∀ c ∈ x, c ∈ Q.toList) :
    bifidDecrypt Q (bifidEncrypt Q x) = x := by
  have hflat : flatCoords Q (bifidEncrypt Q x) = rowsThenCols Q x :=
    flatCoords_cellsOfPairs hQ (rowsThenCols Q x) (rowsThenCols_lt hx)
      (by rw [rowsThenCols_length]; omega)
  have hrows : (x.map fun c => (coordOf Q c).1).length = x.length := List.length_map ..
  have htake : (rowsThenCols Q x).take x.length = x.map fun c => (coordOf Q c).1 :=
    List.take_left' hrows
  have hdrop : (rowsThenCols Q x).drop x.length = x.map fun c => (coordOf Q c).2 :=
    List.drop_left' hrows
  rw [bifidDecrypt, hflat, bifidEncrypt_length, htake, hdrop, List.zipWith_map, List.zipWith_self]
  refine (List.map_congr_left fun c hc => ?_).trans (List.map_id x)
  exact (coordOf_spec (hx c hc)).2.2

/-! ### The commands -/

/-- Every byte of the chunk has its coordinates. -/
theorem all_inSquare_iff : x.all (inSquare Q) = true ↔ ∀ c ∈ x, c ∈ Q.toList := by
  simp only [List.all_eq_true, inSquare_iff]

theorem admits_bifid {k : Nat} (hk : k ≤ 64) (hv : s.sqv = true)
    (h : ∀ c ∈ s.operand k, c ∈ s.sq.toList) :
    s.admits (.bfEnc k) = true ∧ s.admits (.bfDec k) = true := by
  simp [State.admits, hk, hv, all_inSquare_iff.mpr h]

/-- A success that puts out `out` and writes nothing else. -/
theorem exec_produce {i : Instr} {out : List Byte} {k : Nat} (h : s.admits i = true)
    (heffect : s.effect i = s.produce out) (hout : out.length = k) (hk : k ≤ 64) :
    ∃ D : Vector Byte 64, IsOutput out D ∧
      exec i s = .next { s with dout := D, outlen := BitVec.ofNat 7 k, errcode := 0x00 } := by
  subst hout
  refine ⟨(s.produce out).dout, s.produce_isOutput hk, ?_⟩
  rw [exec_of_admits h, State.success, heffect]
  rfl

/-! ### The text procedures -/

/-- An idle block with the valid square `Q`. -/
structure SquareAt (Q : Vector Byte 25) (s : State) : Prop where
  idle : s.pend = none
  sqv : s.sqv = true
  sq : s.sq = Q

/-- The command `i` issued with the operand bytes `x` in any idle block with the square `Q` puts out `y`
and leaves such a block. -/
def Outputs (Q : Vector Byte 25) (x : List Byte) (i : Instr) (y : List Byte) : Prop :=
  ∀ s, SquareAt Q s → ∃ t, s.runCommand x i = some t ∧ t.readout = y ∧ SquareAt Q t

/-- A command that only produces `y` on every issue of `x` in a block with the square `Q` outputs it. -/
theorem outputs_of_effect {i : Instr} (hwf : i.wellFormed = true) (hx : x.length ≤ 64)
    (hy : y.length ≤ 64)
    (h : ∀ u : State, u.operand x.length = x → u.sqv = true → u.sq = Q →
      u.admits i = true ∧ u.effect i = u.produce y) : Outputs Q x i y := by
  intro s hs
  have hu {u : State} (hu : IsIssue s x u) : u.admits i = true ∧ u.effect i = u.produce y :=
    h u hu.operand (hu.sqv.trans hs.sqv) (hu.sq.trans hs.sq)
  obtain ⟨u, hissue, hrun⟩ :=
    State.runCommand_of_admits hs.idle hwf hx fun u hissue => (hu hissue).1
  rw [State.success, (hu hissue).2] at hrun
  have hsqv : u.sqv = true := hissue.sqv.trans hs.sqv
  exact ⟨_, hrun, State.readout_eq_of_produce (u := u) hy rfl rfl, rfl, hsqv, hissue.sq.trans hs.sq⟩

theorem outputs_bfFilter (upcase foldj : Bool) (hx : x.length ≤ 64) :
    Outputs Q x (.bfFilter x.length upcase foldj) (filterText upcase foldj x) := by
  refine outputs_of_effect (by simpa [Instr.wellFormed] using hx) hx
    ((filterText_length_le upcase foldj x).trans hx) fun u hop _ _ => ⟨decide_eq_true hx, ?_⟩
  rw [State.effect, hop]

theorem outputs_bfEnc (hx : x.length ≤ 64) (hletters : ∀ c ∈ x, c ∈ Q.toList) :
    Outputs Q x (.bfEnc x.length) (bifidEncrypt Q x) := by
  refine outputs_of_effect (by simpa [Instr.wellFormed] using hx) hx (by simpa using hx)
    fun u hop hv hsq => ⟨(admits_bifid hx hv (by rwa [hop, hsq])).1, ?_⟩
  rw [State.effect, hop, hsq]

theorem outputs_bfDec (hx : x.length ≤ 64) (hletters : ∀ c ∈ x, c ∈ Q.toList) :
    Outputs Q x (.bfDec x.length) (bifidDecrypt Q x) := by
  refine outputs_of_effect (by simpa [Instr.wellFormed] using hx) hx (by simpa using hx)
    fun u hop hv hsq => ⟨(admits_bifid hx hv (by rwa [hop, hsq])).2, ?_⟩
  rw [State.effect, hop, hsq]

/-- A command on each piece: the outputs are joined. -/
theorem SquareAt.runPieces {cmd : Nat → Instr} {f : List Byte → List Byte} {ps : List (List Byte)}
    (h : SquareAt Q s) (hps : ∀ p ∈ ps, Outputs Q p (cmd p.length) (f p)) :
    ∃ t, s.runPieces cmd ps = some ((ps.map f).flatten, t) ∧ SquareAt Q t := by
  induction ps generalizing s with
  | nil => exact ⟨s, rfl, h⟩
  | cons p ps ih =>
    obtain ⟨hp, hps⟩ := List.forall_mem_cons.mp hps
    obtain ⟨t, hrun, hout, ht⟩ := hp s h
    obtain ⟨v, hrest, hv⟩ := ih ht hps
    exact ⟨v, by simp [State.runPieces, hrun, hrest, hout], hv⟩

/-- The bytes of a piece are bytes of the text. -/
theorem mem_of_mem_piecesOf {n fuel : Nat} {text p : List Byte} (hn : 1 ≤ n)
    (hfuel : text.length ≤ fuel) (hp : p ∈ piecesOf n fuel text) (hc : c ∈ p) : c ∈ text := by
  rw [← piecesOf_flatten hn hfuel]
  exact List.mem_flatten.mpr ⟨p, hp, hc⟩

theorem piecesOf_nil (n fuel : Nat) : piecesOf n fuel [] = [] := by
  cases fuel <;> rfl

theorem piecesOf_succ {n fuel : Nat} {text : List Byte} (h : text ≠ []) :
    piecesOf n (fuel + 1) text = text.take n :: piecesOf n fuel (text.drop n) := if_neg h

/-- A text whose pieces were each replaced by one of the same length is cut at the same places. -/
theorem piecesOf_map_flatten {f : List Byte → List Byte} (hf : ∀ p, (f p).length = p.length)
    {n fuel : Nat} {text : List Byte} (hn : 1 ≤ n) :
    piecesOf n fuel ((piecesOf n fuel text).map f).flatten = (piecesOf n fuel text).map f := by
  induction fuel generalizing text with
  | zero => rfl
  | succ fuel ih =>
    by_cases ht : text = []
    · simp [ht, piecesOf_nil]
    · have hlen : 0 < text.length := List.length_pos_iff.mpr ht
      have hp : (f (text.take n)).length = min n text.length := by rw [hf, List.length_take]
      have hne : f (text.take n) ++ ((piecesOf n fuel (text.drop n)).map f).flatten ≠ [] :=
        List.append_ne_nil_of_left_ne_nil (List.length_pos_iff.mp (by omega)) _
      rw [piecesOf_succ ht, List.map_cons, List.flatten_cons, piecesOf_succ hne]
      by_cases hfull : n ≤ text.length
      · have hpn : (f (text.take n)).length = n := by omega
        rw [List.take_left' hpn, List.drop_left' hpn, ih]
      · rw [List.drop_of_length_le (by omega : text.length ≤ n), piecesOf_nil, List.map_nil,
          List.flatten_nil, List.append_nil, List.take_of_length_le (by omega),
          List.drop_of_length_le (by omega), piecesOf_nil]

/-- Pieces of the same lengths make a text of the same length. -/
theorem length_map_flatten {f : List Byte → List Byte} (hf : ∀ p, (f p).length = p.length)
    (ps : List (List Byte)) : (ps.map f).flatten.length = ps.flatten.length := by
  simp [List.length_flatten, List.map_map, Function.comp_def, hf]

/-- The chunks of a filtered text (rule R129). -/
def chunks (period : Nat) (letters : List Byte) : List (List Byte) :=
  piecesOf period letters.length letters

/-- The chunks of a filtered text, each transformed by BF_ENC, joined (rule R129). -/
def cipherText (Q : Vector Byte 25) (period : Nat) (letters : List Byte) : List Byte :=
  ((chunks period letters).map (bifidEncrypt Q)).flatten

variable {period : Nat} {text letters p : List Byte}

theorem chunks_flatten (hpos : 1 ≤ period) : (chunks period letters).flatten = letters :=
  piecesOf_flatten hpos le_rfl

theorem length_le_of_mem_chunks (hle : period ≤ 64) (hp : p ∈ chunks period letters) :
    p.length ≤ 64 := (length_le_of_mem_piecesOf hp).trans hle

theorem letters_of_mem_chunks (hpos : 1 ≤ period) (hletters : ∀ c ∈ letters, c ∈ Q.toList)
    (hp : p ∈ chunks period letters) : ∀ c ∈ p, c ∈ Q.toList :=
  fun c hc => hletters c (mem_of_mem_piecesOf hpos le_rfl hp hc)

/-- The cipher text consists of letters of the square. -/
theorem cipherText_subset (hpos : 1 ≤ period) (hletters : ∀ c ∈ letters, c ∈ Q.toList) :
    ∀ c ∈ cipherText Q period letters, c ∈ Q.toList := by
  intro c hc
  obtain ⟨y, hy, hc⟩ := List.mem_flatten.mp hc
  obtain ⟨p, hp, rfl⟩ := List.mem_map.mp hy
  exact bifidEncrypt_subset (letters_of_mem_chunks hpos hletters hp) c hc

/-- The cipher text is cut where the plain one was. -/
theorem chunks_cipherText (hpos : 1 ≤ period) :
    chunks period (cipherText Q period letters) = (chunks period letters).map (bifidEncrypt Q) := by
  have hlen : (cipherText Q period letters).length = letters.length := by
    rw [cipherText, length_map_flatten (bifidEncrypt_length Q), chunks_flatten hpos]
  rw [chunks, hlen]
  exact piecesOf_map_flatten (bifidEncrypt_length Q) hpos

/-- Decrypted chunk by chunk, the cipher text is the plain one. -/
theorem decrypt_chunks_cipherText (hQ : Q.toList.Nodup) (hpos : 1 ≤ period)
    (hletters : ∀ c ∈ letters, c ∈ Q.toList) :
    ((chunks period (cipherText Q period letters)).map (bifidDecrypt Q)).flatten = letters := by
  have hback : (chunks period letters).map (bifidDecrypt Q ∘ bifidEncrypt Q) =
      chunks period letters :=
    (List.map_congr_left fun p hp =>
      bifidDecrypt_bifidEncrypt hQ (letters_of_mem_chunks hpos hletters hp)).trans (List.map_id _)
  rw [chunks_cipherText hpos, List.map_map, hback, chunks_flatten hpos]

/-- A text procedure filters by 64-byte pieces and then runs its command on the chunks (rule R129). -/
theorem SquareAt.bifidText {upcase foldj : Bool} {chunk : Nat → Instr} {f : List Byte → List Byte}
    (h : SquareAt Q s) (hperiod : 1 ≤ period ∧ period ≤ 64)
    (hletters : filterText upcase foldj text = letters)
    (hchunk : ∀ p ∈ chunks period letters, Outputs Q p (chunk p.length) (f p)) :
    ∃ t, s.bifidText (fun n => .bfFilter n upcase foldj) chunk period text =
        some (((chunks period letters).map f).flatten, t) ∧ SquareAt Q t := by
  obtain ⟨s1, hfilter, h1⟩ := h.runPieces (cmd := fun n => .bfFilter n upcase foldj)
    (f := filterText upcase foldj) (ps := piecesOf 64 text.length text)
    fun p hp => outputs_bfFilter upcase foldj (length_le_of_mem_piecesOf hp)
  rw [filterText_flatten, piecesOf_flatten (by decide) le_rfl, hletters] at hfilter
  obtain ⟨t, hrun, ht⟩ := h1.runPieces hchunk
  exact ⟨t, State.bifidText_eq_some.mpr ⟨hperiod, letters, s1, hfilter, hrun⟩, ht⟩

/-- The encrypting text procedure puts out the cipher text of the filtered text. -/
theorem SquareAt.encryptText (h : SquareAt Q s) (hperiod : 1 ≤ period ∧ period ≤ 64)
    (hletters : ∀ c ∈ filterText true true text, c ∈ Q.toList) :
    ∃ t, s.bifidEncryptText period text =
      some (cipherText Q period (filterText true true text), t) ∧ SquareAt Q t :=
  h.bifidText hperiod rfl fun _ hp =>
    outputs_bfEnc (length_le_of_mem_chunks hperiod.2 hp) (letters_of_mem_chunks hperiod.1 hletters hp)

/-- The decrypting text procedure on square letters puts out their decrypted chunks. -/
theorem SquareAt.decryptText (h : SquareAt Q s) (hQ : Q.toList.Perm Config.alpha25)
    (hperiod : 1 ≤ period ∧ period ≤ 64) (hletters : ∀ c ∈ letters, c ∈ Q.toList) :
    ∃ t, s.bifidDecryptText period letters =
      some (((chunks period letters).map (bifidDecrypt Q)).flatten, t) ∧ SquareAt Q t :=
  h.bifidText hperiod
    (filterText_of_alpha25 true false fun c hc => hQ.mem_iff.mp (hletters c hc)) fun _ hp =>
    outputs_bfDec (length_le_of_mem_chunks hperiod.2 hp) (letters_of_mem_chunks hperiod.1 hletters hp)

/-! ### The statements -/

/-- Settles O36: filtering maps each byte and keeps the letters. -/
theorem bfFilterKeepsTheLetters : Obligations.BfFilterKeepsTheLetters := by
  intro s n upcase foldj hn mapped kept
  have hkept : filterText upcase foldj (s.operand n) = kept := filterText_eq upcase foldj _
  refine exec_produce (decide_eq_true hn) (congrArg s.produce hkept) rfl ?_
  have hlen := filterText_length_le upcase foldj (s.operand n)
  rw [hkept, State.operand_length] at hlen
  omega

/-- Settles O37: the pairs are read from the rows followed by the columns. -/
theorem bfEncReadsPairsOfRowsAndCols : Obligations.BfEncReadsPairsOfRowsAndCols := by
  intro s k hk hv hletters x seq
  have hx : x.length = k := by simp [x]; omega
  have hout : (bifidEncrypt s.sq x).length = k := by rw [bifidEncrypt_length, hx]
  have hseq : seq.length = 2 * k := by simp [seq, hx]; omega
  obtain ⟨D, hD, hexec⟩ := exec_produce (admits_bifid hk hv hletters).1 rfl hout hk
  refine ⟨bifidEncrypt s.sq x, D, hout, hD, fun i hi => ?_, hexec⟩
  exact (cellsOfPairs_getD s.sq seq i (by omega)).trans (cell_eq_getD ..)

/-- Settles O38: the output pairs the first half of the coordinates with the second. -/
theorem bfDecRepairsTheHalves : Obligations.BfDecRepairsTheHalves := by
  intro s k hk hv hletters y flat
  have hy : y.length = k := by simp [y]; omega
  have hout : (bifidDecrypt s.sq y).length = k := by rw [bifidDecrypt_length, hy]
  have hflat : flatCoords s.sq y = flat := rfl
  have hlen : flat.length = 2 * k := by rw [← hflat, flatCoords_length, hy]
  obtain ⟨D, hD, hexec⟩ := exec_produce (admits_bifid hk hv hletters).2 rfl hout hk
  refine ⟨bifidDecrypt s.sq y, D, hout, hD, fun i hi => ?_, hexec⟩
  rw [bifidDecrypt, hflat, hy, ← cell_eq_getD]
  simp only [List.getD_eq_getElem?_getD, List.getElem?_zipWith, List.getElem?_take,
    List.getElem?_drop, hi, if_true, List.getElem?_eq_getElem (show i < flat.length by omega),
    List.getElem?_eq_getElem (show k + i < flat.length by omega), Option.getD_some]

/-- BF_DEC on the letters `x` of the square. -/
theorem exec_bfDec_of_operand {k : Nat} (hk : k ≤ 64) (hv : s.sqv = true) (hop : s.operand k = x)
    (hx : ∀ c ∈ x, c ∈ s.sq.toList) :
    exec (.bfDec k) s = .next ((s.produce (bifidDecrypt s.sq x)).withErr .ok) := by
  subst hop
  exact exec_of_admits (admits_bifid hk hv hx).2

/-- Settles O39: the letters of a valid square are all different, so that the coordinates of a cell are
its row and column. -/
theorem bfDecInvertsBfEnc : Obligations.BfDecInvertsBfEnc := by
  intro s k hinv hv hk hletters
  have hperm := hinv.perm hv
  have hmem : ∀ c ∈ s.operand k, c ∈ s.sq.toList := fun c hc => hperm.mem_iff.mpr (hletters c hc)
  have hlen : (bifidEncrypt s.sq (s.operand k)).length = k := by simp; omega
  have hback := bifidDecrypt_bifidEncrypt (hperm.nodup_iff.mpr alpha25_nodup) hmem
  obtain ⟨D, ⟨-, hD⟩, henc⟩ := exec_produce (admits_bifid hk hv hmem).1 rfl hlen hk
  refine ⟨_, _, henc, exec_bfDec_of_operand hk hv ?_ (bifidEncrypt_subset hmem), rfl, ?_⟩
  · rw [State.operand, hD, List.take_left' hlen]
  · rw [hback]
    exact State.readout_eq_of_produce (u := s) (by simp) rfl rfl

/-- Settles O40: both procedures cut their texts at the same places, and the chunks are undone one by
one. -/
theorem bifidTextRoundTrip : Obligations.BifidTextRoundTrip := by
  intro s period text hinv hidle hv hpos hle
  have hperm := hinv.perm hv
  have hletters : ∀ c ∈ filterText true true text, c ∈ s.sq.toList :=
    fun c hc => hperm.mem_iff.mpr (filterText_subset text c hc)
  obtain ⟨t, henc, ht⟩ := SquareAt.encryptText ⟨hidle, hv, rfl⟩ ⟨hpos, hle⟩ hletters
  obtain ⟨u, hdec, -⟩ := ht.decryptText hperm ⟨hpos, hle⟩ (cipherText_subset hpos hletters)
  rw [decrypt_chunks_cipherText (hperm.nodup_iff.mpr alpha25_nodup) hpos hletters] at hdec
  exact ⟨_, _, t, u, henc, hdec, rfl, filterText_of_alpha25 true true⟩

end Sys2Proof.Machine
end

section
/-! PROOFS. The invariants: what a host access can change, that every command's success keeps the six
invariants of 10_state.md section 5 and those of the window's registers, and the statements O52, O53
and O54. -/

namespace Sys2Proof.Machine

variable {s t : State} {i : Instr}

/-! ### Host accesses -/

/-- A served write changes no register of the engine's side. -/
theorem State.writeReg_frame (s : State) (off : Nat) (v : Word) :
    s.writeReg off v =
      { s with
        cmd := (s.writeReg off v).cmd, ovr := (s.writeReg off v).ovr
        din := (s.writeReg off v).din, pend := (s.writeReg off v).pend
        snap := (s.writeReg off v).snap } := by
  obtain ⟨-, -, h⟩ | ⟨-, -, h⟩ | ⟨-, -, h⟩ | ⟨-, -, h⟩ := s.writeReg_cases off v <;> rw [h]
  rfl

/-- All that a host access can change (rules R66, R69, R77). -/
theorem State.access_frame {a : Access} (h : s.access a = .next t) :
    t = { s with
      cmd := t.cmd, ovr := t.ovr, din := t.din, pend := t.pend, snap := t.snap, rdata := t.rdata
      draws := t.draws } := by
  obtain ⟨-, rfl⟩ | ⟨-, -, -, -, rfl⟩ | ⟨-, -, -, v, -, rfl⟩ := State.access_eq_next h
  · rfl
  · rfl
  · rw [State.serveWrite, s.writeReg_frame a.off.toNat v]

/-! ### The engine invariants, command by command -/

/-- The clause of rule R39 on a build, for a build that holds `L`. -/
theorem Square.Holds.buildClause {L : List Byte} (h : s.square.Holds L) :
    s.sqn ≤ 25 ∧ s.filled.Nodup ∧ (∀ c ∈ s.filled, c ∈ Config.alpha25) ∧
      (∀ c ∈ Config.alpha25, s.seen.getD (alphaIndex c) false = decide (c ∈ s.filled)) ∧
      s.sq.toList.drop s.sqn = List.replicate (25 - s.sqn) 0 :=
  square_holds_iff.mp (h.filled_eq.symm ▸ h)

/-- The clause of rule R39 on a valid square, for a finished build. -/
theorem Square.Holds.validClause {q : Square} {L : List Byte} (h : q.Holds L) :
    q.fill.sqn = 25 ∧ q.fill.sq.toList.Perm Config.alpha25 := by
  obtain ⟨hcells, hsqn, -⟩ := h.fill_eq
  exact ⟨hsqn, hcells ▸ fill_perm_alpha25 h.nodup h.subset⟩

/-- PS_FEED keeps the invariants: the build holds more letters. -/
theorem engineInv_psFeed {len : Nat} (h : s.EngineInv) (hb : s.sqb = true) :
    (s.effect (.psFeed len)).EngineInv := by
  have hbuild := h.building hb
  rw [← dedupFirst_of_nodup hbuild.nodup] at hbuild
  have hfeed : (s.effect (.psFeed len)).square.Holds _ := hbuild.feed (s.operand len)
  obtain ⟨hexcl, -, -, hkey, hstream, hdigest⟩ := h
  have hv : s.sqv = false := hexcl hb
  exact ⟨hexcl, fun hv' => absurd (hv.symm.trans hv') (by decide), fun _ => hfeed.buildClause, hkey,
    hstream, hdigest⟩

/-- PS_FINISH keeps the invariants: the square it makes valid holds every letter. -/
theorem engineInv_psFinish (h : s.EngineInv) (hb : s.sqb = true) :
    (s.effect .psFinish).EngineInv := by
  have hvalid := (h.building hb).validClause
  obtain ⟨-, -, -, hkey, hstream, hdigest⟩ := h
  simp only [State.effect]
  generalize s.square.fill = q at hvalid ⊢
  exact ⟨nofun, fun _ => hvalid, nofun, hkey, hstream, hdigest⟩

/-- Every command's success keeps the engine invariants. The commands are grouped by the unit they
write. -/
theorem effect_engineInv (h : s.EngineInv) (hc : s.admits i = true) : (s.effect i).EngineInv := by
  have hall := h
  obtain ⟨hexcl, hvalid, hbuild, hkey, hstream, hdigest⟩ := h
  cases i with
  | nop | bcEnc | psLook | psRlook | bfFilter | bfEnc | bfDec => exact hall
  | zeroize =>
    exact ⟨nofun, nofun, nofun, fun _ => rfl, fun _ => rfl, fun _ => ⟨rfl, rfl⟩⟩
  | bcKey => exact ⟨hexcl, hvalid, hbuild, nofun, fun _ => rfl, hdigest⟩
  | ofbIv => exact ⟨hexcl, hvalid, hbuild, hkey, nofun, hdigest⟩
  | ofbBlk =>
    obtain ⟨-, hv⟩ : s.ksv = true ∧ s.ivv = true := by simpa [State.admits] using hc
    exact ⟨hexcl, hvalid, hbuild, hkey, fun hf => absurd (hv.symm.trans hf) (by decide), hdigest⟩
  | ofbEncFin | ofbDecFin => exact ⟨hexcl, hvalid, hbuild, hkey, fun _ => rfl, hdigest⟩
  | hInit => exact ⟨hexcl, hvalid, hbuild, hkey, hstream, nofun⟩
  | hBlk =>
    have hact : s.hact = true := hc
    exact ⟨hexcl, hvalid, hbuild, hkey, hstream, fun hf => absurd (hact.symm.trans hf) (by decide)⟩
  | hFin => exact ⟨hexcl, hvalid, hbuild, hkey, hstream, fun _ => ⟨rfl, rfl⟩⟩
  | psStart =>
    have hempty : (s.effect .psStart).square.Holds [] := emptySquare_holds
    exact ⟨fun _ => rfl, nofun, fun _ => hempty.buildClause, hkey, hstream, hdigest⟩
  | psFeed len =>
    obtain ⟨-, hb⟩ : len ≤ 64 ∧ s.sqb = true := by simpa [State.admits] using hc
    exact engineInv_psFeed hall hb
  | psFinish => exact engineInv_psFinish hall hc

/-- A command keeps the engine invariants, whether it succeeds or raises an error. -/
theorem exec_engineInv (h : s.EngineInv) (hexec : exec i s = .next t) : t.EngineInv := by
  obtain ⟨hc, rfl⟩ | ⟨-, e, -, rfl⟩ := exec_eq_next hexec
  · exact effect_engineInv h hc
  · exact h

/-- The engine's turn keeps them: the word in PEND is an error or a command. -/
theorem engineTurn_engineInv (h : s.EngineInv) (hturn : s.engineTurn = .next t) : t.EngineInv := by
  obtain ⟨-, rfl⟩ | ⟨v, u, -, hu, rfl⟩ := State.engineTurn_eq_next hturn
  · exact h
  · obtain ⟨e, -, he⟩ | ⟨i, -, hi⟩ := s.execWord_cases v
    · obtain rfl := Host.Outcome.next.inj (he.symm.trans hu)
      exact h
    · have hinv : u.EngineInv := exec_engineInv h (hi.symm.trans hu)
      exact hinv

/-- A host access does not reach them. -/
theorem access_engineInv {a : Access} (h : s.EngineInv) (haccess : s.access a = .next t) :
    t.EngineInv := by
  rw [State.access_frame haccess]
  exact h

theorem reset_engineInv : State.reset.EngineInv :=
  ⟨nofun, nofun, nofun, fun _ => rfl, fun _ => rfl, fun _ => ⟨rfl, rfl⟩⟩

/-! ### The window's registers -/

/-- OUTLEN is at most 64 and DOUT is zero past it (rules R26, R28). -/
def OutputInv (s : State) : Prop :=
  s.outlen.toNat ≤ 64 ∧
    s.dout.toList.drop s.outlen.toNat = List.replicate (64 - s.outlen.toNat) 0

/-- Every output of at most 64 bytes is one that OUTLEN measures. -/
theorem produce_outputInv {out : List Byte} (s : State) (h : out.length ≤ 64) :
    OutputInv (s.produce out) := by
  have hlen : (s.produce out).outlen.toNat = out.length := by
    simp only [State.produce_outlen, BitVec.toNat_ofNat]
    omega
  rw [OutputInv, hlen, (s.produce_isOutput h).2, List.drop_left]
  exact ⟨h, rfl⟩

/-- No output, as after ZEROIZE and reset. -/
theorem outputInv_of_zero (hlen : s.outlen = 0) (hdout : s.dout = Vector.replicate 64 0) :
    OutputInv s := by
  rw [OutputInv, hlen, hdout]
  exact ⟨by decide, rfl⟩

/-- Every command's success keeps OUTLEN and DOUT in step: it puts out at most 64 bytes, or clears both,
or writes neither. -/
theorem effect_outputInv (h : OutputInv s) : OutputInv (s.effect i) := by
  cases i with
  | zeroize => exact outputInv_of_zero rfl rfl
  | bcEnc => exact produce_outputInv s (by simp)
  | ofbBlk => exact produce_outputInv s (out := xorBytes (s.operand 16) s.keystream) (by simp)
  | ofbEncFin len =>
    exact produce_outputInv s (out := xorBytes (pkcsPad (s.operand len)) s.keystream) (by simp)
  | ofbDecFin =>
    have hlen := pkcsUnpad_length_le (xorBytes (s.operand 16) s.keystream)
    exact produce_outputInv s (hlen.trans (by decide))
  | hFin len =>
    exact produce_outputInv s (out := digestBytes (absorbTail s.h (hashTail (s.operand len)
      (s.mlen + BitVec.ofNat 64 (8 * len))))) (by simp)
  | bfFilter len upcase foldj =>
    have hlen := filterText_length_le upcase foldj (s.operand len)
    exact produce_outputInv s (hlen.trans (by simp))
  | bfEnc len | bfDec len => exact produce_outputInv s (by simp)
  | psFinish => simpa [OutputInv, State.effect] using h
  | nop | bcKey | ofbIv | hInit | hBlk | psStart | psFeed | psLook | psRlook => exact h

/-- Every command's success leaves RESULT one byte (rules R29, R226, R227). -/
theorem effect_result_lt (h : s.result.toNat < 256) (hc : s.admits i = true) :
    (s.effect i).result.toNat < 256 := by
  cases i with
  | zeroize => exact (by decide : (0 : Word).toNat < 256)
  | psLook row col =>
    have hlt := (cell s.sq row col).isLt
    simp only [State.effect, BitVec.toNat_setWidth]
    omega
  | psRlook c =>
    obtain ⟨-, hmem⟩ : s.sqv = true ∧ c ∈ s.sq.toList := by
      simpa [State.admits, inSquare_iff] using hc
    obtain ⟨hrow, hcol, -⟩ := coordOf_spec hmem
    simp only [State.effect, rlook_result hrow hcol, BitVec.toNat_ofNat]
    omega
  | psFinish => simpa [State.effect] using h
  | _ => exact h

/-- A command keeps the window's registers in their ranges, whether it succeeds or raises an error. -/
theorem exec_windowRegs (h : s.WindowInv) (hexec : exec i s = .next t) :
    OutputInv t ∧ t.errcode.toNat ≤ 0x0A ∧ t.result.toNat < 256 := by
  obtain ⟨hlen, hdout, -, hresult, -⟩ := h
  obtain ⟨hc, rfl⟩ | ⟨-, e, -, rfl⟩ := exec_eq_next hexec
  · exact ⟨effect_outputInv (s := s) ⟨hlen, hdout⟩, ErrCode.code_le .ok,
      effect_result_lt hresult hc⟩
  · exact ⟨⟨hlen, hdout⟩, e.code_le, hresult⟩

/-- The engine's turn keeps the window's invariants: it ends with PEND empty. -/
theorem engineTurn_windowInv (h : s.WindowInv) (hturn : s.engineTurn = .next t) : t.WindowInv := by
  obtain ⟨-, rfl⟩ | ⟨v, u, -, hu, rfl⟩ := State.engineTurn_eq_next hturn
  · exact h
  · obtain ⟨e, -, he⟩ | ⟨i, -, hi⟩ := s.execWord_cases v
    · obtain rfl := Host.Outcome.next.inj (he.symm.trans hu)
      obtain ⟨hlen, hdout, -, hresult, -⟩ := h
      exact ⟨hlen, hdout, (decodeErrCode e).code_le, hresult, .inl rfl⟩
    · obtain ⟨⟨hlen, hdout⟩, herr, hresult⟩ := exec_windowRegs h (hi.symm.trans hu)
      exact ⟨hlen, hdout, herr, hresult, .inl rfl⟩

/-- An accepted write puts one word into CMD and PEND; no other write changes either (rule R66). -/
theorem writeReg_pend (off : Nat) (v : Word) (h : s.pend = none ∨ s.pend = some s.cmd) :
    (s.writeReg off v).pend = none ∨ (s.writeReg off v).pend = some (s.writeReg off v).cmd := by
  obtain ⟨-, -, hw⟩ | ⟨-, -, hw⟩ | ⟨-, -, hw⟩ | ⟨-, -, hw⟩ := s.writeReg_cases off v <;> rw [hw]
  · exact h
  · exact .inr rfl
  · exact h
  · exact h

theorem access_windowInv {a : Access} (h : s.WindowInv) (haccess : s.access a = .next t) :
    t.WindowInv := by
  obtain ⟨hlen, hdout, herr, hresult, hpend⟩ := h
  have hpend' : t.pend = none ∨ t.pend = some t.cmd := by
    obtain ⟨-, rfl⟩ | ⟨-, -, -, -, rfl⟩ | ⟨-, -, -, v, -, rfl⟩ := State.access_eq_next haccess
    · exact hpend
    · exact hpend
    · exact writeReg_pend a.off.toNat v hpend
  rw [State.access_frame haccess]
  exact ⟨hlen, hdout, herr, hresult, hpend'⟩

theorem reset_windowInv : State.reset.WindowInv := by
  obtain ⟨hlen, hdout⟩ := outputInv_of_zero (s := State.reset) rfl rfl
  exact ⟨hlen, hdout, by decide, by decide, .inl rfl⟩

/-! ### The statements -/

/-- Settles O52: after reset no flag is set and every register is zero. -/
theorem invariantsHoldAtReset : Obligations.InvariantsHoldAtReset :=
  ⟨reset_engineInv, reset_windowInv⟩

/-- Settles O53: by what a step can be. -/
theorem stepKeepsEngineInvariants : Obligations.StepKeepsEngineInvariants := by
  intro s t h hstep
  obtain ⟨a, rest, -, hs⟩ | ⟨rest, -, hs⟩ | ⟨rest, -, hs⟩ := step_cases s
  · exact access_engineInv (s := { s with agenda := rest }) h (hs.symm.trans hstep)
  · obtain rfl := Host.Outcome.next.inj (hs.symm.trans hstep)
    exact reset_engineInv
  · exact engineTurn_engineInv (s := { s with agenda := rest }) h (hs.symm.trans hstep)

/-- Settles O54: by what a step can be. -/
theorem stepKeepsWindowInvariants : Obligations.StepKeepsWindowInvariants := by
  intro s t h hstep
  obtain ⟨a, rest, -, hs⟩ | ⟨rest, -, hs⟩ | ⟨rest, -, hs⟩ := step_cases s
  · exact access_windowInv (s := { s with agenda := rest }) h (hs.symm.trans hstep)
  · obtain rfl := Host.Outcome.next.inj (hs.symm.trans hstep)
    exact reset_windowInv
  · exact engineTurn_windowInv (s := { s with agenda := rest }) h (hs.symm.trans hstep)

end Sys2Proof.Machine
end

section
/-! PROOFS. What the host reads while the block is idle and while it is busy, which addresses are the
window, and that no access reaches the internal state: the statements O41, O47, O48 and O49 of
10_state.md and 20_memory.md. -/

namespace Sys2Proof.Machine

variable {s t : State}

/-! ### STATUS, bit by bit -/

theorem flagBit_getLsbD (b : Bool) {i j : Nat} (hj : j < 32) :
    (flagBit b i).getLsbD j = (b && decide (i = j)) := by
  cases b with
  | false => simp [flagBit]
  | true =>
    simp only [flagBit, if_true, BitVec.getLsbD_shiftLeft, BitVec.getLsbD_one, hj, decide_true,
      Bool.true_and]
    by_cases h : i = j
    · simp [h]
    · simp [h]
      omega

/-- The bits of STATUS (rule R24): the seven flags at 0 to 6, and ERRCODE from 8 on. -/
theorem State.status_getLsbD (s : State) {j : Nat} (hj : j < 32) :
    s.status.getLsbD j =
      ((s.busy && decide (0 = j)) || (s.ovr && decide (1 = j)) || (s.ksv && decide (2 = j)) ||
        (s.ivv && decide (3 = j)) || (s.hact && decide (4 = j)) || (s.sqb && decide (5 = j)) ||
        (s.sqv && decide (6 = j)) || (decide (8 ≤ j) && s.errcode.getLsbD (j - 8))) := by
  simp only [State.status, BitVec.getLsbD_or, flagBit_getLsbD _ hj, BitVec.getLsbD_shiftLeft,
    BitVec.getLsbD_setWidth, hj, decide_true, Bool.true_and]
  congr 1
  by_cases h : 8 ≤ j
  · simp [h, Nat.not_lt.mpr h, show j - 8 < 32 by omega]
  · simp [h, Nat.not_le.mp h]

/-- The flags of STATUS (rules R20, R24). -/
theorem State.status_flags (s : State) :
    s.status.getLsbD 0 = s.busy ∧ s.status.getLsbD 1 = s.ovr ∧ s.status.getLsbD 2 = s.ksv ∧
      s.status.getLsbD 3 = s.ivv ∧ s.status.getLsbD 4 = s.hact ∧ s.status.getLsbD 5 = s.sqb ∧
      s.status.getLsbD 6 = s.sqv ∧ s.status.getLsbD 7 = false := by
  refine ⟨?_, ?_, ?_, ?_, ?_, ?_, ?_, ?_⟩ <;>
    exact (s.status_getLsbD (by decide)).trans (by simp)

/-- ERRCODE is STATUS[15:8], and the bits above it are 0 (rules R20, R24). -/
theorem State.status_fields (s : State) :
    s.status.extractLsb' 8 8 = s.errcode ∧ s.status.extractLsb' 16 16 = 0 := by
  refine ⟨BitVec.eq_of_getLsbD_eq fun i hi => ?_, BitVec.eq_of_getLsbD_eq fun i hi => ?_⟩
  · rw [BitVec.getLsbD_extractLsb', s.status_getLsbD (by omega)]
    simp [hi, show ∀ n < 8, n ≠ 8 + i from fun n hn => by omega]
  · rw [BitVec.getLsbD_extractLsb', s.status_getLsbD (by omega)]
    have herr : s.errcode.getLsbD (16 + i - 8) = false := BitVec.getLsbD_of_ge _ _ (by omega)
    simp [herr, show ∀ n < 16, n ≠ 16 + i from fun n hn => by omega]

/-- The busy form of STATUS: BUSY is 1, OVR is true to the flag, and the reserved bits are 0, whatever
the free draw (rules R24, R44). -/
theorem State.statusBusy_fields (s : State) (d : Word) :
    (s.statusBusy d).getLsbD 0 = true ∧ (s.statusBusy d).getLsbD 1 = s.ovr ∧
      (s.statusBusy d).getLsbD 7 = false ∧ (s.statusBusy d).extractLsb' 16 16 = 0 := by
  have hbit {j : Nat} (hj : j < 32) : (s.statusBusy d).getLsbD j =
      (decide (0 = j) || (s.ovr && decide (1 = j)) ||
        (d.getLsbD j && (0xFF7C : Word).getLsbD j)) := by
    simp only [State.statusBusy, BitVec.getLsbD_or, flagBit_getLsbD _ hj, BitVec.getLsbD_and,
      Bool.true_and]
  refine ⟨(hbit (by decide)).trans (by simp), (hbit (by decide)).trans (by simp),
    (hbit (by decide)).trans (by simp), BitVec.eq_of_getLsbD_eq fun i hi => ?_⟩
  have hmask : (0xFF7C : Word).getLsbD (16 + i) = false := by interval_cases i <;> rfl
  rw [BitVec.getLsbD_extractLsb', hbit (by omega), hmask]
  simp [show ∀ n < 16, n ≠ 16 + i from fun n hn => by omega]

/-! ### Reads -/

theorem State.readData_idle (h : s.pend = none) (off : Nat) : s.readData off = s.regAt off := by
  simp [State.readData, State.busy_eq_false_iff.mpr h]

/-- A served read at an aligned offset returns its data and changes nothing of the block (rule R69). -/
theorem State.event_evRead_eq (s : State) {off : Nat} (hwin : off ≤ 0xFF) (hal : off % 4 = 0)
    {w : Word} (hw : s.readData off = w) :
    ∃ t, s.event (evRead off) = .next t ∧ t.block = s.block ∧ t.rdata = some w :=
  ⟨_, s.event_evRead hwin hal, s.serveRead_block off, hw ▸ rfl⟩

/-- The register at the offset of DOUT[k] is its four bytes (rules R22, R28). -/
theorem State.regAt_dout (s : State) {k : Nat} (hk : k < 16) :
    s.regAt (0x80 + 4 * k) =
      s.dout[4 * k + 3] ++ s.dout[4 * k + 2] ++ s.dout[4 * k + 1] ++ s.dout[4 * k] := by
  have hcmd : 0x80 + 4 * k ≠ offCmd := by unfold offCmd; omega
  have hst : 0x80 + 4 * k ≠ offStatus := by unfold offStatus; omega
  have hol : 0x80 + 4 * k ≠ offOutlen := by unfold offOutlen; omega
  have hre : 0x80 + 4 * k ≠ offResult := by unfold offResult; omega
  have hdin : isDin (0x80 + 4 * k) = false := by simp [isDin]
  have hdout : isDout (0x80 + 4 * k) = true := by simp [isDout]; omega
  have hidx : (0x80 + 4 * k - offDout) / 4 = k := by unfold offDout; omega
  simp only [State.regAt, hcmd, hst, hol, hre, hdin, hdout, hidx, if_true, if_false,
    Bool.false_eq_true]
  exact leWord_toList s.dout (by omega)

/-- A read of CMD is exact at any time (rule R44). -/
theorem State.readData_cmd (s : State) : s.readData offCmd = s.cmd := by
  simp [State.readData, State.regAt, offCmd, offStatus, offOutlen, offResult, isDout]

/-- What a read returns does not depend on the internal state, on SNAP, or on the word in PEND, but for
whether there is one (rules R31 to R35, R44). -/
theorem State.readData_congr {s s' : State} (hbusy : s.pend.isSome = s'.pend.isSome)
    (h : s = { s' with
      sched := s.sched, civ := s.civ, h := s.h, mlen := s.mlen, sq := s.sq, sqn := s.sqn,
      seen := s.seen, snap := s.snap, pend := s.pend }) (off : Nat) :
    s.readData off = s'.readData off := by
  have hb : s.busy = s'.busy := hbusy
  have hreg : s.regAt off = s'.regAt off := by
    simp only [State.regAt, State.status, hb]
    rw [h]
  have hst : s.statusBusy = s'.statusBusy := by
    funext d
    rw [State.statusBusy, h]
    rfl
  have hdraws : s.draws = s'.draws := by rw [h]
  simp only [State.readData, hb, hreg, hst, hdraws]

/-- The data of an access is the register's for a read of the window, and none for any other access
(rule R77). -/
theorem State.access_rdata {a : Access} (h : s.access a = .next t) :
    t.rdata = if a.inWindow ∧ a.data = none then some (s.readData a.off.toNat) else none := by
  obtain ⟨hwin, rfl⟩ | ⟨hwin, -, -, hread, rfl⟩ | ⟨-, -, -, v, hwrite, rfl⟩ :=
    State.access_eq_next h
  · simp [hwin]
  · simp [hwin, hread]
  · simp [hwrite, State.serveWrite]

/-! ### The window -/

/-- An access outside the window does not reach the block (rule R60). -/
theorem State.access_outside (s : State) {a : Access} (h : a.off < 0 ∨ 0xFF < a.off) :
    ∃ t, s.access a = .next t ∧ t.block = s.block := by
  have hwin : a.inWindow = false := by simp [Access.inWindow]; omega
  exact ⟨{ s with rdata := none }, by simp [State.access, hwin], rfl⟩

/-- PEND and SNAP change by an accepted CMD write alone (rule R66). -/
theorem State.writeReg_pend_snap {off : Nat} (v : Word) (h : off ≠ offCmd ∨ s.busy = true) :
    (s.writeReg off v).pend = s.pend ∧ (s.writeReg off v).snap = s.snap := by
  obtain ⟨-, -, hw⟩ | ⟨hoff, hidle, -⟩ | ⟨-, -, hw⟩ | ⟨-, -, hw⟩ := s.writeReg_cases off v
  · rw [hw]; exact ⟨rfl, rfl⟩
  · rcases h with h | h
    · exact absurd hoff h
    · exact absurd h (by simp [hidle])
  · rw [hw]; exact ⟨rfl, rfl⟩
  · rw [hw]; exact ⟨rfl, rfl⟩

theorem State.access_pend_snap {a : Access} (h : s.access a = .next t)
    (ha : a.data = none ∨ a.off ≠ 0x00 ∨ s.pend.isSome = true) :
    t.pend = s.pend ∧ t.snap = s.snap := by
  obtain ⟨-, rfl⟩ | ⟨-, -, -, -, rfl⟩ | ⟨hwin, -, -, v, hv, rfl⟩ := State.access_eq_next h
  · exact ⟨rfl, rfl⟩
  · exact ⟨rfl, rfl⟩
  · refine State.writeReg_pend_snap v ?_
    rcases ha with hd | hoff | hbusy
    · simp [hv] at hd
    · simp only [Access.inWindow, Bool.and_eq_true, decide_eq_true_eq] at hwin
      exact .inl (by unfold offCmd; omega)
    · exact .inr hbusy

/-! ### The statements -/

/-- Settles O41: the offset of an address of the window is the address less BASE. -/
theorem windowIsBaseToBasePlus255 : Obligations.WindowIsBaseToBasePlus255 := by
  refine ⟨fun s a data ⟨hlow, hhigh⟩ hal => ?_, fun s a size data cached hout => ?_,
    fun s a hout => s.access_outside hout⟩
  · obtain ⟨off, rfl⟩ := Nat.exists_eq_add_of_le hlow
    rw [Nat.add_sub_cancel_left] at hal ⊢
    rw [accessAt_base_add]
    refine State.access_served (by simp [Access.inWindow]; omega) rfl ?_
    exact Access.aligned_natCast_iff.mpr ⟨rfl, hal⟩
  · refine s.access_outside ?_
    simp only [accessAt]
    omega

/-- Settles O47: with PEND empty every read returns the register. -/
theorem idleReadsAreExact : Obligations.IdleReadsAreExact := by
  intro s hidle
  have hbusy : s.busy = false := State.busy_eq_false_iff.mpr hidle
  have hstatus : s.readData 0x04 = s.status := s.readData_idle hidle 0x04
  obtain ⟨h0, h1, h2, h3, h4, h5, h6, h7⟩ := s.status_flags
  obtain ⟨herr, hzero⟩ := s.status_fields
  refine ⟨s.event_evRead_eq (by decide) rfl s.readData_cmd, ?_,
    s.event_evRead_eq (by decide) rfl ((s.readData_idle hidle 0x08).trans ?_),
    s.event_evRead_eq (by decide) rfl (s.readData_idle hidle 0x0C), fun k hk =>
    s.event_evRead_eq (by omega) (by omega) ((s.readData_idle hidle _).trans (s.regAt_dout hk))⟩
  · obtain ⟨t, hread, hblock, hdata⟩ := s.event_evRead_eq (by decide) rfl hstatus
    exact ⟨t, _, hread, hblock, hdata, h0.trans hbusy, h1, h2, h3, h4, h5, h6, h7, herr, hzero⟩
  · exact (BitVec.ofNat_toNat 32 s.outlen).symm

/-- Settles O48: every aligned read is served, CMD is exact, and STATUS has its busy form. -/
theorem busyReadsKeepBusyAndOvr : Obligations.BusyReadsKeepBusyAndOvr := by
  intro s hbusy
  refine ⟨fun off hwin hal => ?_, s.event_evRead_eq (by decide) rfl s.readData_cmd, ?_⟩
  · obtain ⟨t, hread⟩ := s.event_evRead_eq hwin hal rfl
    exact ⟨t, _, hread⟩
  · obtain ⟨t, hread, hblock, hdata⟩ :=
      s.event_evRead_eq (by decide) rfl (State.readData_status_busy hbusy)
    exact ⟨t, _, hread, hblock, hdata, s.statusBusy_fields _⟩

/-- Settles O49: the frame of an access, and what a read's data depends on. -/
theorem hostHasNoPathToInternalState : Obligations.HostHasNoPathToInternalState := by
  refine ⟨fun s t a h => ?_, fun s t s' t' a h h' hbusy hsame => ?_⟩
  · have hpend := State.access_pend_snap h
    rw [State.access_frame h]
    exact ⟨rfl, rfl, rfl, rfl, rfl, rfl, rfl, rfl, rfl, rfl, rfl, rfl, rfl, rfl, rfl, rfl, hpend⟩
  · rw [State.access_rdata h, State.access_rdata h', State.readData_congr hbusy hsame]

end Sys2Proof.Machine
end

section
/-! PROOFS. The agenda: no event depends on the events after it, so that steps serve the agenda in its
order, and a command in flight completes with its own effect whatever served accesses come before. The
statements O9 and O10 of 20_memory.md and 70_reset_and_hazards.md. -/

namespace Sys2Proof.Machine

variable {s t u : State}

/-! ### The events after an event -/

/-- `s` with other events still to come. -/
def State.withAgenda (s : State) (es : List Event) : State := { s with agenda := es }

/-- No command sees the agenda. -/
theorem exec_withAgenda (i : Instr) (s : State) (es : List Event) :
    exec i (s.withAgenda es) = mapNext (·.withAgenda es) (exec i s) := by
  obtain ⟨t, ht⟩ := exec_answers_next i s
  rw [ht]
  by_cases hi : i = .zeroize
  · subst hi
    obtain rfl := Host.Outcome.next.inj ht
    rfl
  · have hkeep : t.withHostSide (s.withAgenda es) = t.withAgenda es :=
      congrArg (·.withAgenda es) (exec_keeps_hostSide hi ht).symm
    exact (exec_withHostSide_eq_next hi ht (s.withAgenda es)).trans (congrArg _ hkeep)

/-- No access sees the agenda. -/
theorem State.access_withAgenda (s : State) (a : Access) (es : List Event) :
    (s.withAgenda es).access a = mapNext (·.withAgenda es) (s.access a) := by
  have hwrite (off : Nat) (v : Word) :
      (s.withAgenda es).serveWrite off v = (s.serveWrite off v).withAgenda es := by
    simp only [State.serveWrite, State.writeReg, State.writeCmd]
    have hbusy : (s.withAgenda es).busy = s.busy := rfl
    rw [hbusy]
    split_ifs <;> rfl
  unfold State.access
  split_ifs with hwin hcached hal
  · rfl
  · rfl
  · rfl
  · cases a.data with
    | none => rfl
    | some v => exact congrArg Host.Outcome.next (hwrite a.off.toNat v)

/-- No event sees the events after it. -/
theorem State.event_withAgenda (s : State) (e : Event) (es : List Event) :
    (s.withAgenda es).event e = mapNext (·.withAgenda es) (s.event e) := by
  cases e with
  | access a => exact s.access_withAgenda a es
  | reset => rfl
  | engine =>
    simp only [State.event, State.engineTurn]
    have hpend : (s.withAgenda es).pend = s.pend := rfl
    rw [hpend]
    cases s.pend with
    | none => rfl
    | some v =>
      simp only [State.execWord]
      cases decode v with
      | error e => rfl
      | ok i =>
        obtain ⟨t, ht⟩ := exec_answers_next i s
        simp only [exec_withAgenda, ht]
        rfl

/-- An event leaves the events after it to come. -/
theorem State.event_agenda {e : Event} (h : s.event e = .next t) : t.agenda = s.agenda := by
  have hself : s.event e = mapNext (·.withAgenda s.agenda) (s.event e) :=
    s.event_withAgenda e s.agenda
  rw [h] at hself
  have hkeep := congrArg State.agenda (Host.Outcome.next.inj hself)
  exact hkeep

/-! ### Runs -/

theorem run_succ_of_next (k : Nat) (h : step s = .next t) :
    core.run (k + 1) s = core.run k t := by
  simp only [Host.Core.run, show core.step s = .next t from h]

theorem run_succ_of_fault (k : Nat) {r : Fault} (h : step s = .fault r) :
    core.run (k + 1) s = .fault r := by
  simp only [Host.Core.run, show core.step s = .fault r from h]

theorem run_succ_of_refused (k : Nat) {r : Refusal} (h : step s = .refused r) :
    core.run (k + 1) s = .refused r := by
  simp only [Host.Core.run, show core.step s = .refused r from h]

/-- A run that answers a next state made a first step and then the others. -/
theorem run_succ_eq_next {k : Nat} (h : core.run (k + 1) s = .next t) :
    ∃ u, step s = .next u ∧ core.run k u = .next t := by
  cases hs : step s with
  | next u => exact ⟨u, rfl, (run_succ_of_next k hs).symm.trans h⟩
  | fault r => exact nomatch (run_succ_of_fault k hs).symm.trans h
  | refused r => exact nomatch (run_succ_of_refused k hs).symm.trans h

/-- As many steps as the agenda has events do its events in order. -/
theorem run_withAgenda (es : List Event) (s : State) :
    core.run es.length (s.withAgenda es) = (s.withAgenda []).runEvents es := by
  induction es generalizing s with
  | nil => rfl
  | cons e es ih =>
    have hstep : step (s.withAgenda (e :: es)) =
        mapNext (·.withAgenda es) ((s.withAgenda []).event e) :=
      (step_of_event (s := s.withAgenda (e :: es)) rfl).trans
        ((s.withAgenda []).event_withAgenda e es)
    rw [State.runEvents]
    cases h : (s.withAgenda []).event e with
    | next t =>
      have ht : t.withAgenda [] = t := by
        have hagenda : t.agenda = [] := State.event_agenda h
        rw [State.withAgenda, ← hagenda]
      rw [h] at hstep
      exact (run_succ_of_next _ hstep).trans ((ih t).trans (by rw [ht]))
    | fault r =>
      rw [h] at hstep
      exact run_succ_of_fault _ hstep
    | refused r =>
      rw [h] at hstep
      exact run_succ_of_refused _ hstep

/-- Runs of the machine compose. -/
theorem run_add {k : Nat} (m : Nat) (h : core.run k s = .next t) :
    core.run (k + m) s = core.run m t := by
  induction k generalizing s with
  | zero =>
    obtain rfl := Host.Outcome.next.inj h
    rw [Nat.zero_add]
  | succ k ih =>
    obtain ⟨u, hu, hrest⟩ := run_succ_eq_next h
    rw [Nat.add_right_comm, run_succ_of_next _ hu, ih hrest]

/-! ### A command in flight -/

/-- The state of the units and the outputs: what is left when the host's side and SNAP are left out. -/
def State.units (s : State) : State :=
  { s.withHostSide State.reset with snap := State.reset.snap }

/-- What the host can change while a command is in flight: its own side, PEND excepted. -/
structure InFlight (s t : State) : Prop where
  hostSide : t = s.withHostSide t
  pend : t.pend = s.pend
  agenda : t.agenda = s.agenda

/-- An access the block serves, or one that does not reach it. -/
def Harmless (e : Event) : Prop :=
  ∃ a : Access, e = .access a ∧ (a.inWindow = true → a.cached = false ∧ a.aligned = true)

/-- While BUSY a served access reaches the host's side alone (rules R27, R66). -/
theorem State.event_harmless {e : Event} (hbusy : s.busy = true) (he : Harmless e) :
    ∃ t, s.event e = .next t ∧ InFlight s t := by
  obtain ⟨a, rfl, ha⟩ := he
  obtain ⟨t, ht⟩ : ∃ t, s.access a = .next t := by
    cases hwin : a.inWindow with
    | false => exact ⟨{ s with rdata := none }, by simp [State.access, hwin]⟩
    | true =>
      obtain ⟨hcached, hal⟩ := ha hwin
      exact ⟨_, State.access_served hwin hcached hal⟩
  obtain ⟨hpend, hsnap⟩ := State.access_pend_snap ht (.inr (.inr hbusy))
  have hagenda : t.agenda = s.agenda := State.event_agenda (e := .access a) ht
  refine ⟨t, ht, ?_, hpend, hagenda⟩
  have hframe := State.access_frame ht
  rw [hsnap, ← hagenda] at hframe
  exact hframe

/-- So do any number of them. -/
theorem State.runEvents_harmless {es : List Event} (hbusy : s.busy = true)
    (hes : ∀ e ∈ es, Harmless e) : ∃ t, s.runEvents es = .next t ∧ InFlight s t := by
  induction es generalizing s with
  | nil => exact ⟨s, rfl, s.withHostSide_self.symm, rfl, rfl⟩
  | cons e es ih =>
    obtain ⟨he, hes⟩ := List.forall_mem_cons.mp hes
    obtain ⟨t, ht, hst⟩ := State.event_harmless hbusy he
    have hbusy' : t.busy = true := (congrArg Option.isSome hst.pend).trans hbusy
    obtain ⟨u, hu, htu⟩ := ih hbusy' hes
    refine ⟨u, ?_, ?_, htu.pend.trans hst.pend, htu.agenda.trans hst.agenda⟩
    · rw [State.runEvents, ht]
      exact hu
    · have hside := htu.hostSide
      rw [hst.hostSide] at hside
      exact hside

/-- A command has the same effect on the units whatever the host's side is. -/
theorem exec_units {i : Instr} {x : State} (h : exec i (s.withHostSide x) = .next u) :
    ∃ w, exec i s = .next w ∧ u.units = w.units := by
  obtain ⟨w, hw⟩ := exec_answers_next i s
  refine ⟨w, hw, ?_⟩
  by_cases hi : i = .zeroize
  · subst hi
    obtain rfl := Host.Outcome.next.inj h
    obtain rfl := Host.Outcome.next.inj hw
    rfl
  · rw [exec_withHostSide hi, hw] at h
    obtain rfl := Host.Outcome.next.inj h
    rfl

/-- So has a word, whether it decodes or not. -/
theorem State.execWord_units {v : Word} {x : State}
    (h : (s.withHostSide x).execWord v = .next u) :
    ∃ w, s.execWord v = .next w ∧ u.units = w.units := by
  cases hd : decode v with
  | error e =>
    rw [State.execWord_of_error hd] at h
    obtain rfl := Host.Outcome.next.inj h
    exact ⟨_, State.execWord_of_error hd, rfl⟩
  | ok i =>
    rw [State.execWord_of_ok hd] at h
    rw [State.execWord_of_ok hd]
    exact exec_units h

/-- Every word answers a next state. -/
theorem State.execWord_answers_next (s : State) (v : Word) : ∃ t, s.execWord v = .next t := by
  obtain ⟨e, -, he⟩ | ⟨i, -, hi⟩ := s.execWord_cases v
  · exact ⟨_, he⟩
  · rw [hi]
    exact exec_answers_next i s

/-- A command in flight completes after the accesses still to come, with its effect at the start. -/
theorem run_completes {v : Word} (hpend : s.pend = some v) (h : ∀ e ∈ s.agenda, Harmless e) :
    ∃ t u, core.run (s.agenda.length + 1) s = .next t ∧ s.execWord v = .next u ∧ t.pend = none ∧
      t.agenda = [] ∧ t.units = u.units := by
  have hbusy : (s.withAgenda []).busy = true := congrArg Option.isSome hpend
  obtain ⟨t, ht, hflight⟩ := State.runEvents_harmless hbusy h
  have hrun : core.run s.agenda.length s = .next t := (run_withAgenda s.agenda s).trans ht
  obtain ⟨w, hw⟩ := t.execWord_answers_next v
  have hturn : t.engineTurn = .next w.retire := by
    rw [State.engineTurn_busy (hflight.pend.trans hpend), hw]
    rfl
  have hdone : w.retire.agenda = t.agenda := State.event_agenda (e := .engine) hturn
  rw [hflight.hostSide] at hw
  obtain ⟨u, hu, hunits⟩ := State.execWord_units (s := s) (x := t) hw
  refine ⟨w.retire, u, ?_, hu, rfl, hdone.trans hflight.agenda, hunits⟩
  rw [run_add 1 hrun, run_succ_of_next 0 ((step_of_no_event hflight.agenda).trans hturn)]
  rfl

/-! ### The statements -/

/-- Settles O9: no event sees the events after it. -/
theorem stepsServeTheAgendaInOrder : Obligations.StepsServeTheAgendaInOrder := run_withAgenda

/-- Settles O10: the accesses reach the host's side alone, and the command does not read it. -/
theorem acceptedCommandCompletes : Obligations.AcceptedCommandCompletes := by
  intro s v hpend haccesses
  obtain ⟨t, u, hrun, hu, hidle, hagenda, hunits⟩ := run_completes hpend haccesses
  have field {α : Type} (f : State → α) : f t.units = f u.units := congrArg f hunits
  exact ⟨t, u, hrun, hu, hidle, hagenda, field State.errcode, field State.sched, field State.ksv,
    field State.civ, field State.ivv, field State.h, field State.mlen, field State.hact,
    field State.sq, field State.sqn, field State.seen, field State.sqb, field State.sqv,
    field State.dout, field State.outlen, field State.result⟩

end Sys2Proof.Machine
end
